-- ==== Sys2Proof/Word.lean ====
section
/-! DEFINITION. The word type of the engine: the byte, and the byte sequence a port carries. -/

namespace Sys2Proof

/-- A byte: a field element, an opcode, a count or a status (R9, R35, R51).
Bit 7 is the most significant; bit i is the coefficient of x^i (R9, R37). -/
abbrev Byte := BitVec 8

/-- A frame: "a finite ordered sequence of bytes with a known length" (R45), first byte first (R12). -/
abbrev Frame := List Byte

end Sys2Proof
end

