-- ==== Sys2Proof/Config.lean ====
section
/-! DEFINITION. The parameters of the engine (R6, R7): what the source fixes, what the spec chose, and the
two values it leaves open. -/

namespace Sys2Proof.Config

/-- The reduction polynomial x^8 + x^4 + x^3 + x + 1 (R6, R9, R16). -/
def reductionPoly : BitVec 9 := 0x11b

/-- `GEN`, the generator the tables are built from (R7, R18). -/
def GEN : Byte := 0x03

/-- `MAXN`, the greatest number of coefficients PEVAL takes (R7, R63). -/
def MAXN : Nat := 255

/-- `MAXM`, the greatest number of points LINTERP takes (R7, R63). -/
def MAXM : Nat := 255

/-- `LOG0_FILL`, the content of `LOG[0]` (R7, R23): OPEN. A free value, assumption log 2. -/
opaque log0Fill : Byte

/-- `EXP255_FILL`, the content of `EXP[255]` (R7, R23): OPEN. A free value, assumption log 2. -/
opaque exp255Fill : Byte

end Sys2Proof.Config
end

