-- ==== Sys2Proof/Syntax.lean ====
section
/-! DEFINITION. The commands of `GF256-SSS/1` as syntax (R2, R47 to R51, R54) and the names of the engine's
three faults (R120). -/

namespace Sys2Proof

/-- One point of a LINTERP command: its x-coordinate, then its y-value (R50). -/
structure Point where
  x : Byte
  y : Byte
deriving DecidableEq, Repr

/-- The five commands, one constructor per row of the opcode table (R54).
PEVAL has at least one coefficient and LINTERP at least one point (R49, R50, R57), so each carries its
first one apart from the rest: N = `cs.length + 1`, M = `ps.length + 1` (assumption log 6). -/
inductive Instr where
  /-- `GFADD a, b` (R66). -/
  | gfadd (a b : Byte)
  /-- `GFMUL a, b` (R69). -/
  | gfmul (a b : Byte)
  /-- `GFDIV a, b`, a the dividend and b the divisor (R76). -/
  | gfdiv (a b : Byte)
  /-- `PEVAL x, [c0, c1, …]`: `c0` the constant term, `cs` the coefficients of x^1, x^2, … (R82). -/
  | peval (x c0 : Byte) (cs : List Byte)
  /-- `LINTERP [p0, p1, …]` (R89). -/
  | linterp (p0 : Point) (ps : List Point)
deriving DecidableEq, Repr

/-- The engine's three faults (R120). Each is a response of the command that caused it and stops nothing
(R128, R130): it is not one of the reasons a step stops, `Machine.Fault`. -/
inductive CommandFault where
  /-- A division whose divisor is 0x00; raised by GFDIV and LINTERP (R121). -/
  | divideByZero
  /-- The frame spells no command; raised by decode (R122). -/
  | illegalCommand
  /-- A legal opcode with a length or a count the format does not allow; raised by decode (R123). -/
  | badLength
deriving DecidableEq, Repr

end Sys2Proof
end

