-- ==== Sys2Proof/WellFormed.lean ====
section
/-! DEFINITION. The commands a frame can spell: the count must fit its one-byte field (R49, R50, R63). -/

namespace Sys2Proof

/-- `N` of a PEVAL command, or `M` of a LINTERP command, as the count byte gives it (R49, R50); a format AB
command has no count (R48). -/
def Instr.count : Instr → Option Nat
  | .gfadd _ _ | .gfmul _ _ | .gfdiv _ _ => none
  | .peval _ _ cs => some (cs.length + 1)
  | .linterp _ ps => some (ps.length + 1)

/-- PEVAL has 1 to `MAXN` coefficients and LINTERP 1 to `MAXM` points (R49, R50, R63); every byte is a legal
operand in every position (R58). -/
def Instr.wellFormed : Instr → Bool
  | .gfadd _ _ => true
  | .gfmul _ _ => true
  | .gfdiv _ _ => true
  | .peval _ _ cs => decide (cs.length + 1 ≤ Config.MAXN)
  | .linterp _ ps => decide (ps.length + 1 ≤ Config.MAXM)

end Sys2Proof
end

