-- ==== Sys2Proof/Decode.lean ====
section
/-! DEFINITION. The decoder of command frames (R54 to R57), total on every byte sequence and rejecting by
name; the encoder (R48 to R50, R60); and the frame an opcode-table word stands for. -/

namespace Sys2Proof

/-- Opcode of GFADD (R54). -/
def opGFADD : Byte := 0x01
/-- Opcode of GFMUL (R54). -/
def opGFMUL : Byte := 0x02
/-- Opcode of GFDIV (R54). -/
def opGFDIV : Byte := 0x03
/-- Opcode of PEVAL (R54). -/
def opPEVAL : Byte := 0x04
/-- Opcode of LINTERP (R54). -/
def opLINTERP : Byte := 0x05

/-- What decoding a frame gives: one of the five commands with its operands, or one of the two decode
faults (R55). -/
inductive Decoded where
  | command (i : Instr)
  | rejected (f : CommandFault)
deriving DecidableEq, Repr

/-- `cmd[i]` of R11. Every use below stands behind a length test, so the default is never read. -/
def byteAt (cmd : Frame) (i : Nat) : Byte := cmd.getD i 0

/-- Format AB (R48): exactly 3 bytes. -/
def decodeAB (mk : Byte → Byte → Instr) (cmd : Frame) : Decoded :=
  if cmd.length ≠ 3 then .rejected .badLength
  else .command (mk (byteAt cmd 1) (byteAt cmd 2))

/-- Format PV (R49, R55): the count byte is at least 1 and the frame has N + 3 bytes. -/
def decodePV (cmd : Frame) : Decoded :=
  if cmd.length < 2 then .rejected .badLength
  else
    let n := (byteAt cmd 1).toNat
    if n = 0 ∨ cmd.length ≠ n + 3 then .rejected .badLength
    else .command (.peval (byteAt cmd 2) (byteAt cmd 3) (cmd.drop 4))

/-- The points `(cmd[2],cmd[3]), (cmd[4],cmd[5]), …` (R50); a last byte without a partner is dropped, which
the length test of `decodeLI` excludes. -/
def pairUp : List Byte → List Point
  | x :: y :: rest => ⟨x, y⟩ :: pairUp rest
  | _ => []

/-- Format LI (R50, R55): the count byte is at least 1 and the frame has 2·M + 2 bytes. -/
def decodeLI (cmd : Frame) : Decoded :=
  if cmd.length < 2 then .rejected .badLength
  else
    let m := (byteAt cmd 1).toNat
    if m = 0 ∨ cmd.length ≠ 2 * m + 2 then .rejected .badLength
    else .command (.linterp ⟨byteAt cmd 2, byteAt cmd 3⟩ (pairUp (cmd.drop 4)))

/-- Decoding, in the order of R55: no byte or an illegal opcode first, then the length and the count. -/
def decode (cmd : Frame) : Decoded :=
  if cmd.length = 0 then .rejected .illegalCommand
  else
    let op := byteAt cmd 0
    if op = opGFADD then decodeAB .gfadd cmd
    else if op = opGFMUL then decodeAB .gfmul cmd
    else if op = opGFDIV then decodeAB .gfdiv cmd
    else if op = opPEVAL then decodePV cmd
    else if op = opLINTERP then decodeLI cmd
    else .rejected .illegalCommand

/-- The opcode byte of a command (R54). -/
def Instr.opcode : Instr → Byte
  | .gfadd _ _ => opGFADD
  | .gfmul _ _ => opGFMUL
  | .gfdiv _ _ => opGFDIV
  | .peval _ _ _ => opPEVAL
  | .linterp _ _ => opLINTERP

/-- The bytes of a point in a frame: x, then y (R36, R50). -/
def Point.bytes (p : Point) : List Byte := [p.x, p.y]

/-- The frame of a command (R48 to R50, R60); for a well-formed command the count fits its byte. -/
def encode : Instr → Frame
  | .gfadd a b => [opGFADD, a, b]
  | .gfmul a b => [opGFMUL, a, b]
  | .gfdiv a b => [opGFDIV, a, b]
  | .peval x c0 cs => opPEVAL :: BitVec.ofNat 8 (cs.length + 1) :: x :: c0 :: cs
  | .linterp p0 ps =>
    opLINTERP :: BitVec.ofNat 8 (ps.length + 1) :: (p0 :: ps).flatMap Point.bytes

/-- The length the format of a frame's opcode and count asks for (R48 to R50); a frame of an illegal opcode
asks for none. -/
def askedLength (cmd : Frame) : Nat :=
  let op := byteAt cmd 0
  if op = opGFADD ∨ op = opGFMUL ∨ op = opGFDIV then 3
  else if op = opPEVAL then (byteAt cmd 1).toNat + 3
  else if op = opLINTERP then 2 * (byteAt cmd 1).toNat + 2
  else 0

/-- The frame an opcode-table word stands for: byte i is bits 8·i+7 to 8·i, and the operand bytes above the
row's bits are zero up to the length the opcode and the count ask for (assumption log 8). -/
def tableFrame (nbits w : Nat) : Frame :=
  let given : Frame := (List.range ((nbits + 7) / 8)).map fun i => BitVec.ofNat 8 (w / 2 ^ (8 * i))
  given ++ List.replicate (askedLength given - given.length) 0

/-- The instruction the decoder reads from an opcode-table word, if it accepts the frame. -/
def decodeTableWord (nbits w : Nat) : Option Instr :=
  match decode (tableFrame nbits w) with
  | .command i => some i
  | .rejected _ => none

end Sys2Proof
end

