-- ==== Sys2Proof/Machine/State.lean ====
section
/-! DEFINITION. The state of one engine at its two ports, the reasons a step stops, and the state after
reset. -/

namespace Sys2Proof.Machine

/-- A response frame as the sum type R52 recommends; its two bytes are `Response.bytes`. -/
inductive Response where
  /-- Status OK with the field element the command computed. -/
  | ok (v : Byte)
  /-- A fault; it carries nothing but its code (R125). -/
  | fault (f : CommandFault)
deriving DecidableEq, Repr

/-- An input event: the host presents a whole command frame, or gives a reset between commands (R45, R137,
R151). There is no other input. -/
inductive PortEvent where
  | frame (cmd : Frame)
  | reset
deriving DecidableEq, Repr

/-- The state of one engine. The engine has no register, program counter, flag, control register or memory
(R15, R27 to R31): its tables are constants (`Machine.rom`, R15), and what changes is what stands at its two
ports. -/
structure State where
  /-- The command port and the reset input: the events the host has given that the engine has not taken yet,
  oldest first (R45, R151; assumption log 3). -/
  inputs : List PortEvent
  /-- The response port: every response sent, oldest first; "that list is the observation" (R46, R152). -/
  responses : List Response
deriving DecidableEq, Repr

/-- The reasons a step stops with a fault: none. A fault of the spec is a response and stops nothing (R128,
R130), and "there is no state in which the engine is stuck" (R150). -/
inductive Fault where
deriving DecidableEq, Repr

/-- The reasons a step is refused. -/
inductive Refusal where
  /-- Raised by `exec` for an instruction that has no meaning yet; no arm of this model raises it. Safe. -/
  | notModelled (mnemonic : String)
deriving DecidableEq, Repr

/-- The engine right after reset: idle, nothing at either port (R137, R139, R140). -/
def State.reset : State := { inputs := [], responses := [] }

end Sys2Proof.Machine
end

