-- ==== Sys2Proof/Machine/Flags.lean ====
section
/-! DEFINITION. The status a command answers with. The engine has no flag (R29); the one status it produces
is the status byte of the response (R52, R53). -/

namespace Sys2Proof.Machine

/-- The status byte of a fault (R53, R120). -/
def faultCode : CommandFault → Byte
  | .divideByZero => 0x01
  | .illegalCommand => 0x02
  | .badLength => 0x03

/-- Byte 0 of a response: 0x00 for OK, else the fault's code (R52, R53). -/
def Response.status : Response → Byte
  | .ok _ => 0x00
  | .fault f => faultCode f

/-- Byte 1 of a response: the field element, or the constant 0x00 of a fault (R52). -/
def Response.result : Response → Byte
  | .ok v => v
  | .fault _ => 0x00

/-- The response frame, 2 bytes (R52). -/
def Response.bytes (r : Response) : Frame := [r.status, r.result]

/-- A response frame read by the host, the status before the result (R146): nothing for a frame that is no
response (R53). -/
def Response.ofBytes : Frame → Option Response
  | [0x00, v] => some (.ok v)
  | [0x01, 0x00] => some (.fault .divideByZero)
  | [0x02, 0x00] => some (.fault .illegalCommand)
  | [0x03, 0x00] => some (.fault .badLength)
  | _ => none

/-- A fault is a response whose status byte is not 0x00 (R120). -/
def Response.isFault : Response → Bool
  | .ok _ => false
  | .fault _ => true

end Sys2Proof.Machine
end

