-- ==== Sys2Proof/Machine/Ops.lean ====
section
/-! DEFINITION. The operations every command shares: taking an input, answering, raising a fault, reset, and
the host's two moves. -/

namespace Sys2Proof.Machine

/-- What is left at the command port once the engine has taken an event (R151). -/
def State.setInputs (s : State) (rest : List PortEvent) : State := { s with inputs := rest }

/-- Emit one response (R46): it comes after every earlier one (R41) and nothing else changes. -/
def State.respond (s : State) (r : Response) : State := { s with responses := s.responses ++ [r] }

/-- `raise <Fault>` (R11), the engine's whole exception mechanism: the response of the faulting command
carries the fault's code and 0x00; nothing is saved, no mode changes, no vector is fetched, nothing sticks
(R128 to R130). There is no return from it (R130). -/
def State.raise (s : State) (f : CommandFault) : State := s.respond (.fault f)

/-- A reset between commands (R137): the engine goes to its idle state, which is all the state it has; what
stands at its ports is the host's and stays. -/
def State.resetEngine (s : State) : State :=
  { State.reset with inputs := s.inputs, responses := s.responses }

/-- The host presents a command frame (R45, R151). -/
def State.present (s : State) (f : Frame) : State := s.setInputs (s.inputs ++ [.frame f])

/-- The host gives a reset between commands (R137, R151). -/
def State.giveReset (s : State) : State := s.setInputs (s.inputs ++ [.reset])

end Sys2Proof.Machine
end

