-- ==== Sys2Proof/Machine/Adder.lean ====
section
/-! DEFINITION. GF256_adder, command GFADD (R65, R66). -/

namespace Sys2Proof.Machine

/-- `gf_add(a, b)` (R65): the bitwise exclusive OR; also the field's subtraction. -/
def gfAdd (a b : Byte) : Byte := a ^^^ b

/-- GFADD (R66): no fault for any operands. -/
def execGfadd (a b : Byte) (s : State) : Host.Outcome State Fault Refusal :=
  .next (s.respond (.ok (gfAdd a b)))

end Sys2Proof.Machine
end

