-- ==== Sys2Proof/Machine/Field.lean ====
section
/-! DEFINITION. The field GF(2^8) under 0x11b (R16): the bit-serial product against which the table-driven
multiplier is judged. It is not a unit of the engine. -/

namespace Sys2Proof.Machine

/-- The first loop of `fmul` (R16): the carry-less product of two bytes, up to 15 bits. -/
def clmul (a b : Byte) : BitVec 15 :=
  (List.range 8).foldl (fun r i => if b.getLsbD i then r ^^^ (a.setWidth 15 <<< i) else r) 0

/-- The second loop of `fmul` (R16): for i from 14 down to 8, subtract the reduction polynomial where bit i is
set. -/
def reduce (r : BitVec 15) : BitVec 15 :=
  [14, 13, 12, 11, 10, 9, 8].foldl
    (fun r i => if r.getLsbD i then r ^^^ (Config.reductionPoly.setWidth 15 <<< (i - 8)) else r) r

/-- `fmul(a, b)`, the product of the field (R16). -/
def fmul (a b : Byte) : Byte := (reduce (clmul a b)).setWidth 8

/-- Multiplication by x (R20): a left shift with a conditional XOR of 0x1b. -/
def xtime (v : Byte) : Byte := (v <<< 1) ^^^ (if v.getLsbD 7 then 0x1b else 0x00)

/-- `g^k` under `fmul`, with `g^0` = 0x01 (R18, R19). -/
def fpow (g : Byte) : Nat → Byte
  | 0 => 0x01
  | k + 1 => fmul (fpow g k) g

/-- A generator, or primitive element: its powers g^0 to g^254 are the 255 nonzero elements, each once, and
g^255 = 0x01 (R18). -/
def IsGenerator (g : Byte) : Prop :=
  (∀ a : Byte, a ≠ 0x00 → ∃! i, i < 255 ∧ fpow g i = a) ∧ fpow g 255 = 0x01

/-- The 128 generators the spec lists (R18). -/
def generators : List Byte :=
  [0x03, 0x05, 0x06, 0x09, 0x0b, 0x0e, 0x11, 0x12, 0x13, 0x14, 0x17, 0x18, 0x19, 0x1a, 0x1c, 0x1e] ++
  [0x1f, 0x21, 0x22, 0x23, 0x27, 0x28, 0x2a, 0x2c, 0x30, 0x31, 0x3c, 0x3e, 0x3f, 0x41, 0x45, 0x46] ++
  [0x47, 0x48, 0x49, 0x4b, 0x4c, 0x4e, 0x4f, 0x52, 0x54, 0x56, 0x57, 0x58, 0x59, 0x5a, 0x5b, 0x5f] ++
  [0x64, 0x65, 0x68, 0x69, 0x6d, 0x6e, 0x70, 0x71, 0x76, 0x77, 0x79, 0x7a, 0x7b, 0x7e, 0x81, 0x84] ++
  [0x86, 0x87, 0x88, 0x8a, 0x8e, 0x8f, 0x90, 0x93, 0x95, 0x96, 0x98, 0x99, 0x9b, 0x9d, 0xa0, 0xa4] ++
  [0xa5, 0xa6, 0xa7, 0xa9, 0xaa, 0xac, 0xad, 0xb2, 0xb4, 0xb7, 0xb8, 0xb9, 0xba, 0xbe, 0xbf, 0xc0] ++
  [0xc1, 0xc4, 0xc8, 0xc9, 0xce, 0xcf, 0xd0, 0xd6, 0xd7, 0xda, 0xdc, 0xdd, 0xde, 0xe2, 0xe3, 0xe5] ++
  [0xe6, 0xe7, 0xe9, 0xea, 0xeb, 0xee, 0xf0, 0xf1, 0xf4, 0xf5, 0xf6, 0xf8, 0xfb, 0xfd, 0xfe, 0xff]

end Sys2Proof.Machine
end

