-- ==== Sys2Proof/Machine/Operands.lean ====
section
/-! DEFINITION. The operand arithmetic of the multiplier and the divider: the table indices, natural numbers
(R10, R34, R71, R78). Operands themselves are whole bytes of the frame, taken as they stand (R51). -/

namespace Sys2Proof.Machine

/-- `s` of R70: the integer sum of two logarithms, 0 to 508, not a sum modulo 256 (R71). -/
def mulSum (la lb : Byte) : Nat := la.toNat + lb.toNat

/-- `d` of R77: `LOG[a] + 255 - LOG[b]`, 1 to 509, with the 255 added first so that it is never negative
(R78). -/
def divSum (la lb : Byte) : Nat := la.toNat + 255 - lb.toNat

/-- `EXP[s mod 255]` (R70, R77): the modulus is 255, the number of nonzero elements (R71). -/
def Tables.expMod (t : Tables) (s : Nat) : Byte := t.EXP (BitVec.ofNat 8 (s % 255))

end Sys2Proof.Machine
end

