-- ==== Sys2Proof/Machine/Divider.lean ====
section
/-! DEFINITION. GF256_divider, command GFDIV (R76, R77). -/

namespace Sys2Proof.Machine

/-- `gf_div(a, b)` over given tables (R77): no value for a zero divisor (R79); then the zero dividend, which
keeps `LOG[0]` unread. -/
def Tables.gfDiv (t : Tables) (a b : Byte) : Option Byte :=
  if b = 0x00 then none
  else if a = 0x00 then some 0x00
  else some (t.expMod (divSum (t.LOG a) (t.LOG b)))

/-- `gf_div(a, b)` (R77), over the engine's read-only tables. -/
def gfDiv (a b : Byte) : Option Byte := rom.gfDiv a b

/-- GFDIV (R76): `DivideByZero` exactly when the divisor is 0x00. -/
def execGfdiv (a b : Byte) (s : State) : Host.Outcome State Fault Refusal :=
  match gfDiv a b with
  | none => .next (s.raise .divideByZero)
  | some q => .next (s.respond (.ok q))

end Sys2Proof.Machine
end

