-- ==== Sys2Proof/Machine/Multiplier.lean ====
section
/-! DEFINITION. GF256_multiplier, log/exp table-driven, command GFMUL (R69, R70). -/

namespace Sys2Proof.Machine

/-- `gf_mul(a, b)` over given tables (R70): the zero test comes first and keeps `LOG[0]` unread. -/
def Tables.gfMul (t : Tables) (a b : Byte) : Byte :=
  if a = 0x00 ∨ b = 0x00 then 0x00
  else t.expMod (mulSum (t.LOG a) (t.LOG b))

/-- `gf_mul(a, b)` (R70), over the engine's read-only tables. -/
def gfMul (a b : Byte) : Byte := rom.gfMul a b

/-- GFMUL (R69): no fault for any operands. -/
def execGfmul (a b : Byte) (s : State) : Host.Outcome State Fault Refusal :=
  .next (s.respond (.ok (gfMul a b)))

end Sys2Proof.Machine
end

