-- ==== Sys2Proof/Machine/LagrangeInterpolator.lean ====
section
/-! DEFINITION. lagrange_interpolator_gf256, command LINTERP (R89 to R91). -/

namespace Sys2Proof.Machine

/-- `num` of R90: the product of the factors `0 - x_k`, which are the `x_k` themselves (R91). -/
def lagrangeNum (others : List Point) : Byte :=
  others.foldl (fun num p => gfMul num p.x) 0x01

/-- `den` of R90: the product of the factors `x_j - x_k`, each `gf_add(x_j, x_k)` (R91). -/
def lagrangeDen (xj : Byte) (others : List Point) : Byte :=
  others.foldl (fun den p => gfMul den (gfAdd xj p.x)) 0x01

/-- `term` of R90 for the point `p`, `others` being the points k ≠ j in their order; no value where the
division has none (R79). -/
def lagrangeTerm (p : Point) (others : List Point) : Option Byte :=
  (gfDiv (lagrangeNum others) (lagrangeDen p.x others)).map fun q => gfMul p.y q

/-- The loop of R90 over the points from `j` on: the first denominator that is 0x00 ends it. -/
def lagrangeLoop (pts : List Point) : Nat → List Point → Byte → Option Byte
  | _, [], acc => some acc
  | j, p :: rest, acc =>
    match lagrangeTerm p (pts.eraseIdx j) with
    | none => none
    | some term => lagrangeLoop pts (j + 1) rest (gfAdd acc term)

/-- `linterp(points)` (R90): the value at x = 0 of the polynomial through the points, or none where it raises
`DivideByZero`. -/
def linterp (pts : List Point) : Option Byte := lagrangeLoop pts 0 pts 0x00

/-- LINTERP (R89): `DivideByZero` exactly when two points have the same x (R93). -/
def execLinterp (p0 : Point) (ps : List Point) (s : State) : Host.Outcome State Fault Refusal :=
  match linterp (p0 :: ps) with
  | none => .next (s.raise .divideByZero)
  | some r => .next (s.respond (.ok r))

end Sys2Proof.Machine
end

