-- ==== Sys2Proof/Machine/PolynomialEvaluator.lean ====
section
/-! DEFINITION. polynomial_evaluator, Horner scheme over GF256, command PEVAL (R82 to R84). -/

namespace Sys2Proof.Machine

/-- `peval(x, [c0, c1, …])` (R83), Horner's method: acc is the last coefficient, and each step down
multiplies by x and adds the next one. -/
def peval (x : Byte) : Byte → List Byte → Byte
  | c0, [] => c0
  | c0, c1 :: cs => gfAdd (gfMul (peval x c1 cs) x) c0

/-- `x^k` of R84: `x^0` = 0x01, also for x = 0x00, and `x^k` = `gf_mul(x^(k-1), x)`. -/
def gfPow (x : Byte) : Nat → Byte
  | 0 => 0x01
  | k + 1 => gfMul (gfPow x k) x

/-- PEVAL (R82): no fault in execution for any operands (R86). -/
def execPeval (x c0 : Byte) (cs : List Byte) (s : State) : Host.Outcome State Fault Refusal :=
  .next (s.respond (.ok (peval x c0 cs)))

end Sys2Proof.Machine
end

