-- ==== Sys2Proof/Machine/Dispatch.lean ====
section
/-! DEFINITION. The dispatch of a decoded command to its unit, one arm per command (R54). -/

namespace Sys2Proof.Machine

/-- Execute one decoded command (R54, R151). -/
def exec (i : Instr) (s : State) : Host.Outcome State Fault Refusal :=
  match i with
  | .gfadd a b => Sys2Proof.Machine.execGfadd a b s
  | .gfmul a b => Sys2Proof.Machine.execGfmul a b s
  | .gfdiv a b => Sys2Proof.Machine.execGfdiv a b s
  | .peval x c0 cs => Sys2Proof.Machine.execPeval x c0 cs s
  | .linterp p0 ps => Sys2Proof.Machine.execLinterp p0 ps s

end Sys2Proof.Machine
end

