-- ==== Sys2Proof/Machine/Fetch.lean ====
section
/-! DEFINITION. What one step does with the frame it takes (R55, R126, R151). -/

namespace Sys2Proof.Machine

/-- Decode a frame and execute it, or answer the decode fault (R55, R126). -/
def runFrame (f : Frame) (s : State) : Host.Outcome State Fault Refusal :=
  match decode f with
  | .rejected e => .next (s.raise e)
  | .command i => exec i s

end Sys2Proof.Machine
end

