-- ==== Sys2Proof/Machine/Step.lean ====
section
/-! DEFINITION. One step of the engine (R151): take the event that is present, decode and execute it, emit
the response. -/

namespace Sys2Proof.Machine

/-- One step (R41, R46, R151): one command, wholly, and its response; or one reset (R137). With nothing
presented the engine is idle and stays as it is (R134, R151; assumption log 4). -/
def step (s : State) : Host.Outcome State Fault Refusal :=
  match s.inputs with
  | [] => .next s
  | .reset :: rest => .next (s.setInputs rest).resetEngine
  | .frame f :: rest => runFrame f (s.setInputs rest)

/-- `s` with the frame of an opcode-table word presented first at the command port: the very next step takes
it (assumption log 8). -/
def State.withFetchWord (s : State) (nbits w : Nat) : State :=
  s.setInputs (.frame (tableFrame nbits w) :: s.inputs)

end Sys2Proof.Machine
end

