-- ==== Sys2Proof/Machine/Assembler.lean ====
section
/-! DEFINITION. The written form of commands and responses (R60) and the pseudo-commands (R61). Notation
only: nothing here changes what the engine does. -/

namespace Sys2Proof.Machine

/-! ### Pseudo-commands (R61) -/

/-- `GFSUB a, b` is `GFADD a, b` (R61). -/
def pseudoGfsub (a b : Byte) : Instr := .gfadd a b

/-- `GFNEG a` is no command: the value is a itself (R61). -/
def pseudoGfneg (a : Byte) : Byte := a

/-- `GFINV a` is `GFDIV 0x01, a` (R61). -/
def pseudoGfinv (a : Byte) : Instr := .gfdiv 0x01 a

/-- `GFPOW a, k` with k ≥ 1 is PEVAL at a of k zeros and then 0x01; it needs k ≤ 254 (R61). -/
def pseudoGfpow (a : Byte) (k : Nat) : Option Instr :=
  if 1 ≤ k ∧ k ≤ 254 then some (.peval a 0x00 (List.replicate (k - 1) 0x00 ++ [0x01])) else none

/-- The other expansion of `GFPOW a, k`: the k - 1 products a host forms with GFMUL, the value so far being
the first operand (R61). -/
def pseudoGfpowByMul (a : Byte) (k : Nat) : Byte :=
  (List.range (k - 1)).foldl (fun v _ => gfMul v a) a

/-! ### Writing (R60) -/

/-- A hexadecimal digit in lower case, as the spec writes bytes (R9). -/
def hexDigit (n : Nat) : Char := "0123456789abcdef".toList.getD n '0'

/-- A byte as `0x..` (R9, R60). -/
def writeByte (b : Byte) : List Char :=
  ['0', 'x', hexDigit (b.toNat / 16), hexDigit (b.toNat % 16)]

/-- Items with a comma and a space between them. -/
def writeList (items : List (List Char)) : List Char := [',', ' '].intercalate items

/-- A point as `(x,y)` (R60). -/
def writePoint (p : Point) : List Char := ['('] ++ writeByte p.x ++ [','] ++ writeByte p.y ++ [')']

/-- A command as the spec writes it; the count byte is not written (R60). -/
def writeCommand : Instr → List Char
  | .gfadd a b => "GFADD ".toList ++ writeList [writeByte a, writeByte b]
  | .gfmul a b => "GFMUL ".toList ++ writeList [writeByte a, writeByte b]
  | .gfdiv a b => "GFDIV ".toList ++ writeList [writeByte a, writeByte b]
  | .peval x c0 cs =>
    "PEVAL ".toList ++ writeByte x ++ ", [".toList ++ writeList ((c0 :: cs).map writeByte) ++ [']']
  | .linterp p0 ps => "LINTERP [".toList ++ writeList ((p0 :: ps).map writePoint) ++ [']']

/-- The name of a fault (R53). -/
def faultName : CommandFault → List Char
  | .divideByZero => "DivideByZero".toList
  | .illegalCommand => "IllegalCommand".toList
  | .badLength => "BadLength".toList

/-- A response as `-> OK v` or `-> <FaultName>` (R60). -/
def Response.write : Response → List Char
  | .ok v => "-> OK ".toList ++ writeByte v
  | .fault f => "-> ".toList ++ faultName f

/-! ### Reading (R60) -/

/-- A word or a mark of a written command. -/
inductive Token where
  | word (cs : List Char)
  | mark (c : Char)
deriving DecidableEq, Repr

/-- The characters of a word: letters and digits. -/
def isWordChar (c : Char) : Bool := c.isAlphanum

/-- Cut a line into words and marks; spaces separate, and `;` starts a comment (R60). `w` is the word being
read. -/
def tokens : List Char → List Char → List Token
  | w, [] => if w.isEmpty then [] else [.word w]
  | w, c :: rest =>
    if isWordChar c then tokens (w ++ [c]) rest
    else
      let before := if w.isEmpty then [] else [Token.word w]
      if c = ';' then before
      else if c = ' ' then before ++ tokens [] rest
      else before ++ .mark c :: tokens [] rest

/-- The value of a digit in a base of at most 16. -/
def digitValue (base : Nat) (c : Char) : Option Nat :=
  let v :=
    if '0' ≤ c ∧ c ≤ '9' then c.toNat - '0'.toNat
    else if 'a' ≤ c ∧ c ≤ 'f' then c.toNat - 'a'.toNat + 10
    else if 'A' ≤ c ∧ c ≤ 'F' then c.toNat - 'A'.toNat + 10
    else 16
  if v < base then some v else none

/-- A number in a base of at most 16, most significant digit first; at least one digit. -/
def readNumber (base : Nat) : List Char → Option Nat
  | [] => none
  | cs => cs.foldlM (fun v c => (digitValue base c).map fun d => v * base + d) 0

/-- A byte in hexadecimal, `0x..`, or in decimal (R60). -/
def readByte : List Char → Option Byte
  | '0' :: 'x' :: cs => (readNumber 16 cs).bind fun v => if v < 256 then some (BitVec.ofNat 8 v) else none
  | cs => (readNumber 10 cs).bind fun v => if v < 256 then some (BitVec.ofNat 8 v) else none

/-- The rest of a list of bytes after its first, up to the closing bracket. -/
def readBytesTail : List Token → Option (List Byte)
  | [.mark ']'] => some []
  | .mark ',' :: .word w :: rest =>
    (readByte w).bind fun b => (readBytesTail rest).map fun bs => b :: bs
  | _ => none

/-- The rest of a list of points after its first, up to the closing bracket. -/
def readPointsTail : List Token → Option (List Point)
  | [.mark ']'] => some []
  | .mark ',' :: .mark '(' :: .word x :: .mark ',' :: .word y :: .mark ')' :: rest =>
    (readByte x).bind fun bx => (readByte y).bind fun bo =>
      (readPointsTail rest).map fun ps => ⟨bx, bo⟩ :: ps
  | _ => none

/-- The command a list of tokens spells, pseudo-commands expanded (R60, R61). -/
def readCommand : List Token → Option Instr
  | [.word m, .word a, .mark ',', .word b] =>
    (readByte a).bind fun va =>
      if m = "GFPOW".toList then (readNumber 10 b).bind fun k => pseudoGfpow va k
      else (readByte b).bind fun vb =>
        if m = "GFADD".toList then some (.gfadd va vb)
        else if m = "GFMUL".toList then some (.gfmul va vb)
        else if m = "GFDIV".toList then some (.gfdiv va vb)
        else if m = "GFSUB".toList then some (pseudoGfsub va vb)
        else none
  | [.word m, .word a] => if m = "GFINV".toList then (readByte a).map pseudoGfinv else none
  | .word m :: .word x :: .mark ',' :: .mark '[' :: .word c0 :: rest =>
    if m = "PEVAL".toList then
      (readByte x).bind fun vx => (readByte c0).bind fun v0 =>
        (readBytesTail rest).map fun cs => .peval vx v0 cs
    else none
  | .word m :: .mark '[' :: .mark '(' :: .word x :: .mark ',' :: .word y :: .mark ')' :: rest =>
    if m = "LINTERP".toList then
      (readByte x).bind fun vx => (readByte y).bind fun vy =>
        (readPointsTail rest).map fun ps => .linterp ⟨vx, vy⟩ ps
    else none
  | _ => none

/-- Assemble one line: the frame of the command it spells, the count byte taken from the length of the list
(R60); none where the line spells no command a frame can hold. -/
def assemble (line : List Char) : Option Frame :=
  (readCommand (tokens [] line)).bind fun i => if i.wellFormed then some (encode i) else none

end Sys2Proof.Machine
end

