-- ==== Sys2Proof/Machine/HostSequences.lean ====
section
/-! DEFINITION. The host sequences `split` and `combine` (R98 to R118): the share layout, the validation and
its order, the seven error kinds, and the commands each sends to the engine. Nothing here is an operation of
the engine; every command goes through `step`. -/

namespace Sys2Proof.Machine

/-- A share: byte 0 is the index, the rest the payload (R99). As a host may pass it: any length. -/
abbrev Share := List Byte

/-- The seven host error kinds (R117). They have no code and are no status of the engine. -/
inductive HostError where
  /-- split: `shares` not in [2,255] (R104 test 1). -/
  | invalidShareCount
  /-- split: `threshold` not in [2,255] (R104 test 2). -/
  | invalidThreshold
  /-- split: `shares < threshold` (R104 test 3). -/
  | sharesLessThanThreshold
  /-- split: the secret has zero length (R104 test 4). -/
  | emptySecret
  /-- combine: supplied shares have differing lengths (R111 test 1). -/
  | inconsistentShareLength
  /-- combine: two or more supplied shares share the same index byte (R111 test 2). -/
  | duplicateShares
  /-- combine: fewer than two shares supplied (R111 test 3, R112). -/
  | shareCountMismatch
deriving DecidableEq, Repr

/-- The share sets the spec gives combine no meaning for: "a model refuses such a share set" (R114). Safe. -/
inductive HostRefusal where
  /-- Two or more shares of common length 0 or 1 (R114 (a), assumption log 10). -/
  | shortShares
  /-- 256 shares: LINTERP takes at most 255 points (R114 (b)). -/
  | tooManyShares
deriving DecidableEq, Repr

/-- How a host sequence ends (R102, R110, R114, R116). -/
inductive HostResult (α : Type) where
  /-- It returns its value. -/
  | ok (v : α)
  /-- It returns one error kind (R117). -/
  | error (e : HostError)
  /-- The spec gives the arguments no meaning (R114). -/
  | refused (r : HostRefusal)
  /-- A response was not OK: "the host or the engine is broken", and no rule continues the sequence (R116). -/
  | broken
deriving DecidableEq, Repr

/-- What a host sequence leaves: the engine it drove, how many bytes it drew from the randomness source, and
its result. -/
structure HostRun (α : Type) where
  engine : State
  draws  : Nat
  result : HostResult α
deriving DecidableEq, Repr

/-- Send one command frame and receive its response (R106, R113): present it, let the engine step, take the
response it sent last. -/
def send (f : Frame) (s : State) : State × Option Response :=
  match step (s.present f) with
  | .next t => (t, t.responses.getLast?)
  | .fault _ => (s, none)
  | .refused _ => (s, none)

/-- Send frames one after another, each after the response to the one before it; the results in order, or
nothing at the first response that is not OK (R116). -/
def sendAll : List Frame → State → State × Option (List Byte)
  | [], s => (s, some [])
  | f :: fs, s =>
    match send f s with
    | (t, some (.ok y)) =>
      match sendAll fs t with
      | (u, some ys) => (u, some (y :: ys))
      | (u, none) => (u, none)
    | (t, _) => (t, none)

/-! ### split -/

/-- split's validation in its order, the first failing test deciding (R104). -/
def splitCheck (secret : List Byte) (shares threshold : Int) : Option HostError :=
  if shares < 2 ∨ shares > 255 then some .invalidShareCount
  else if threshold < 2 ∨ threshold > 255 then some .invalidThreshold
  else if shares < threshold then some .sharesLessThanThreshold
  else if secret.length = 0 then some .emptySecret
  else none

/-- `c_1, …, c_(t-1)` of one byte position: the next `t - 1` bytes of the source from draw number `d` on,
`c_1` first, each used as it stands (R103, R107). -/
def drawCoefficients (rng : Nat → Byte) (d t : Nat) : List Byte :=
  (List.range (t - 1)).map fun k => rng (d + k)

/-- The x-coordinates 1 to n (R105). -/
def splitXs (n : Nat) : List Byte := (List.range n).map fun j => BitVec.ofNat 8 (j + 1)

/-- The loop of R106 over the byte positions: for each, fresh coefficients, one PEVAL per x-coordinate in
their order, and the result appended to that share. -/
def splitLoop (xs : List Byte) (t : Nat) (rng : Nat → Byte) :
    List Byte → List Share → Nat → State → HostRun (List Share)
  | [], shares, d, s => { engine := s, draws := d, result := .ok shares }
  | c0 :: secret, shares, d, s =>
    let cs := drawCoefficients rng d t
    match sendAll (xs.map fun x => encode (.peval x c0 cs)) s with
    | (s', some ys) =>
      splitLoop xs t rng secret (List.zipWith (fun share y => share ++ [y]) shares ys) (d + (t - 1)) s'
    | (s', none) => { engine := s', draws := d + (t - 1), result := .broken }

/-- split over given x-coordinates, for a host that does not use 1 to n; they are to be distinct
and nonzero (R105, R144, 93 U6). -/
def splitAt (xs : List Byte) (secret : List Byte) (t : Nat) (rng : Nat → Byte) (s : State) :
    HostRun (List Share) :=
  splitLoop xs t rng secret (xs.map fun x => [x]) 0 s

/-- `split(secret, shares, threshold, rng)` (R102 to R108), driving the engine `s`. The counts are the host's
integers, of any value; `rng k` is the byte the source yields at its draw number k, a free input under no law
(R103, R151). -/
def split (secret : List Byte) (shares threshold : Int) (rng : Nat → Byte) (s : State) :
    HostRun (List Share) :=
  match splitCheck secret shares threshold with
  | some e => { engine := s, draws := 0, result := .error e }
  | none => splitAt (splitXs shares.toNat) secret threshold.toNat rng s

/-! ### combine -/

/-- Test 1 of R111: all shares have the same length; none or one passes vacuously. -/
def sameLengths : List Share → Bool
  | [] => true
  | a :: rest => rest.all fun b => b.length == a.length

/-- The common length `Ls` of the shares (R113). -/
def commonLength (shares : List Share) : Nat := (shares.headD []).length

/-- The index byte of a share, byte 0 (R99). Every use stands behind a length test. -/
def shareIndex (share : Share) : Byte := byteAt share 0

/-- Test 2 of R111: two shares have the same index byte. -/
def hasDuplicateIndex : List Share → Bool
  | [] => false
  | a :: rest => rest.any (fun b => shareIndex b == shareIndex a) || hasDuplicateIndex rest

/-- combine's validation, in the order of R111, with the share sets of R114 refused. -/
def combineCheck (shares : List Share) : HostResult Unit :=
  if !sameLengths shares then .error .inconsistentShareLength
  else if 2 ≤ shares.length ∧ commonLength shares < 2 then .refused .shortShares
  else if hasDuplicateIndex shares then .error .duplicateShares
  else if shares.length < 2 then .error .shareCountMismatch
  else if shares.length > 255 then .refused .tooManyShares
  else .ok ()

/-- The point a share gives at byte position i: its index byte and its payload byte i (R113). -/
def sharePoint (i : Nat) (share : Share) : Point := ⟨shareIndex share, byteAt share (1 + i)⟩

/-- The LINTERP frame of byte position i, the points in the order the shares were passed (R113). -/
def combineFrame (shares : List Share) (i : Nat) : Frame :=
  match shares with
  | [] => []
  | a :: rest => encode (.linterp (sharePoint i a) (rest.map (sharePoint i)))

/-- `combine(shares)` (R110 to R114), driving the engine `s`: one LINTERP per byte position, ascending; it
draws no randomness (R103). -/
def combine (shares : List Share) (s : State) : HostRun (List Byte) :=
  match combineCheck shares with
  | .error e => { engine := s, draws := 0, result := .error e }
  | .refused r => { engine := s, draws := 0, result := .refused r }
  | .broken => { engine := s, draws := 0, result := .broken }
  | .ok () =>
    match sendAll ((List.range (commonLength shares - 1)).map (combineFrame shares)) s with
    | (s', some secret) => { engine := s', draws := 0, result := .ok secret }
    | (s', none) => { engine := s', draws := 0, result := .broken }

end Sys2Proof.Machine
end

