-- ==== Sys2Proof/Machine/TestableProperties.lean ====
section
/-! DEFINITION. The host programs behind D00's testable properties of the sequences (R119 (a) to (f)): each
drives the engine through `split`, `combine` or `send`, and says what a host would look at. -/

namespace Sys2Proof.Machine

/-- R119 (a), the round trip: split, then combine of the shares at the chosen places of its list, counted
from 0, in the order chosen, on the engine split leaves. A split that returns no shares ends it. -/
def roundTrip (secret : List Byte) (n t : Int) (rng : Nat → Byte) (chosen : List Nat) (s : State) :
    HostRun (List Byte) :=
  let first := split secret n t rng s
  match first.result with
  | .ok shares =>
    { combine (chosen.filterMap fun j => shares[j]?) first.engine with draws := first.draws }
  | .error e => { engine := first.engine, draws := first.draws, result := .error e }
  | .refused r => { engine := first.engine, draws := first.draws, result := .refused r }
  | .broken => { engine := first.engine, draws := first.draws, result := .broken }

/-- R119 (b), threshold necessity, as program P6 shows it: the PEVAL commands at the points' x, of the
polynomial with this secret byte and these higher coefficients, answer the points' y. -/
def pointsFit (pts : List Point) (secret : Byte) (cs : List Byte) (s : State) : Bool :=
  (sendAll (pts.map fun p => encode (.peval p.x secret cs)) s).2 == some (pts.map Point.y)

/-- R119 (c), the three examples of split's validation (R104). -/
def splitExamples (secret : List Byte) (rng : Nat → Byte) (s : State) :
    List (HostResult (List Share)) :=
  [(split secret 1 1 rng s).result, (split secret 3 5 rng s).result, (split [] 5 3 rng s).result]

/-- R119 (c), the four examples of combine's validation (R111): no share, a single share, two shares of
differing lengths, two shares of the same index. -/
def combineExamples (share long : Share) (index : Byte) (p q : List Byte) (s : State) :
    List (HostResult (List Byte)) :=
  [(combine [] s).result, (combine [share] s).result, (combine [share, long] s).result,
    (combine [index :: p, index :: q] s).result]

/-- R119 (d), determinism of combine (R115): the results of two calls on one share set, the second on the
engine the first leaves. -/
def combineTwice (shares : List Share) (s : State) : HostResult (List Byte) × HostResult (List Byte) :=
  let first := combine shares s
  (first.result, (combine shares first.engine).result)

/-- The secret of R119 (e): the bytes of "HELLO". -/
def helloSecret : List Byte := [0x48, 0x45, 0x4c, 0x4c, 0x4f]

/-- The first half of R119 (e): "HELLO" split with n = 5 and t = 3. -/
def helloSplit (rng : Nat → Byte) (s : State) : HostRun (List Share) := split helloSecret 5 3 rng s

/-- R119 (e), the concrete scenario: "HELLO" split with n = 5 and t = 3 and the chosen shares combined. -/
def helloScenario (rng : Nat → Byte) (chosen : List Nat) (s : State) : HostRun (List Byte) :=
  roundTrip helloSecret 5 3 rng chosen s

/-- R119 (f), the field engine self-check of one nonzero element, as program P1 runs it:
`mul(a, div(1,a)) == 1`, `add(a,a) == 0`, `mul(a,0) == 0`, and the engine it leaves. -/
def fieldSelfCheck (a : Byte) (s : State) : State × Bool :=
  match send (encode (.gfdiv 0x01 a)) s with
  | (t, some (.ok v)) =>
    let (u, answers) := sendAll [encode (.gfmul a v), encode (.gfadd a a), encode (.gfmul a 0x00)] t
    (u, answers == some [0x01, 0x00, 0x00])
  | (t, _) => (t, false)

end Sys2Proof.Machine
end

