-- ==== Sys2Proof/Machine/Engines.lean ====
section
/-! DEFINITION. Several engines (R42, R136): each has ports of its own, they share the constant tables and
nothing else. -/

namespace Sys2Proof.Machine

/-- The state an engine's step leaves. A step of an engine always answers a next state (R150); an outcome
that is none would leave the engine where it is. -/
def State.advance (s : State) : State :=
  match step s with
  | .next t => t
  | .fault _ => s
  | .refused _ => s

/-- Engine number k of a list of engines takes a step; there is no communication between engines (R42). -/
def stepEngine (k : Nat) (engines : List State) : List State := engines.modify k State.advance

/-- Engines take steps in a given order, each number one step of that engine (R42, R136). -/
def runEngines (schedule : List Nat) (engines : List State) : List State :=
  schedule.foldl (fun es k => stepEngine k es) engines

end Sys2Proof.Machine
end

