-- ==== Sys2Proof/Safety.lean ====
section
/-! DEFINITION. The terms claims about runs use: what a frame is answered, what still waits, when a run is
over, and what a run without a fault is (R41, R46, R130, R150, R152). -/

namespace Sys2Proof.Machine

/-- The response a command gets, as a function of the command alone (R41): written from the command's own
rule, apart from `exec`. -/
def commandResponse : Instr → Response
  | .gfadd a b => .ok (gfAdd a b)
  | .gfmul a b => .ok (gfMul a b)
  | .gfdiv a b => ((gfDiv a b).map Response.ok).getD (.fault .divideByZero)
  | .peval x c0 cs => .ok (peval x c0 cs)
  | .linterp p0 ps => ((linterp (p0 :: ps)).map Response.ok).getD (.fault .divideByZero)

/-- The response a frame gets, as a function of the frame alone: "same frame, same response, always" (R41). -/
def answer (f : Frame) : Response :=
  match decode f with
  | .rejected e => .fault e
  | .command i => commandResponse i

/-- The command frames presented and not yet taken, oldest first; resets carry none. -/
def framesOf : List PortEvent → List Frame
  | [] => []
  | .frame f :: rest => f :: framesOf rest
  | .reset :: rest => framesOf rest

/-- The responses sent so far followed by those the waiting frames will get. -/
def State.allAnswers (s : State) : List Response := s.responses ++ (framesOf s.inputs).map answer

/-- The invariant of a run whose answers, over its whole length, are `rs`: what is answered is answered
right and in order, and each waiting frame is still to be answered (R41, R46). -/
def AnswersKept (rs : List Response) (s : State) : Prop := s.allAnswers = rs

/-- A run is over when every frame the host presented has been answered (R152). -/
def RunOver (s : State) : Prop := framesOf s.inputs = []

/-- A fault of the run stays in its list of responses (R130, R152): the sticky mark is kept in the
observation, not in the engine. -/
def State.faultRecorded (s : State) : Bool := s.responses.any Response.isFault

/-- A safe run: no command of it has been answered with a fault. -/
def SafeSoFar (s : State) : Prop := s.faultRecorded = false

/-- The state in which a run is over: every event taken, each waiting frame answered in its place (R152). -/
def State.finished (s : State) : State := { inputs := [], responses := s.allAnswers }

/-- Σ of R11, the field sum; the empty sum is 0x00. -/
def gfSum (terms : List Byte) : Byte := terms.foldl gfAdd 0x00

/-- Π of R11, the field product; the empty product is 0x01. -/
def gfProduct (factors : List Byte) : Byte := factors.foldl gfMul 0x01

/-- The polynomial `c_0 + c_1·x + … + c_(N-1)·x^(N-1)` written out, each power by repeated `gf_mul` (R84). -/
def polynomialValue (x : Byte) (c : List Byte) : Byte :=
  gfSum (c.mapIdx fun k ck => gfMul ck (gfPow x k))

/-- The Lagrange formula of D00 read as a product of quotients for each point (R91, R92): none where a factor
`x_j - x_k` is zero. -/
def lagrangeFormulaTerm (p : Point) (others : List Point) : Option Byte :=
  (others.mapM fun q => gfDiv q.x (gfAdd p.x q.x)).map fun qs => gfMul p.y (gfProduct qs)

/-- D00's formula over all points, the sum over j of `y_j · Π_(k≠j) x_k / (x_j - x_k)` (R91). -/
def lagrangeFormula (pts : List Point) : Option Byte :=
  (pts.mapIdx fun j p => lagrangeFormulaTerm p (pts.eraseIdx j)).mapM id |>.map gfSum

/-- The x-coordinates of the points are pairwise distinct (R93). -/
def DistinctX (pts : List Point) : Prop := (pts.map Point.x).Nodup

end Sys2Proof.Machine
end

