-- ==== Sys2Proof/Certificates/Slice0/Obligations.lean ====
section
/-! DEFINITION. The statements for the provers, by file of the spec. Each docstring names the rule it
formalises. -/

open Sys2Proof Sys2Proof.Machine

/-! ### The step, runs and reset -/

/-- A frame that decodes to a command is executed, and the step adds only the taking of the frame (R151,
R55). -/
def Obligations.StepRunsTheDecodedCommand : Prop :=
  ∀ (s : State) (f : Frame) (rest : List PortEvent) (i : Instr),
    s.inputs = .frame f :: rest → decode f = .command i →
    step s = exec i { inputs := rest, responses := s.responses }

/-- R46: one response per command frame, legal or not, after every earlier one; none that was not asked
for. -/
def Obligations.OneResponsePerCommandFrame : Prop :=
  (∀ (s : State) (f : Frame) (rest : List PortEvent), s.inputs = .frame f :: rest →
    ∃ r, step s = .next { inputs := rest, responses := s.responses ++ [r] }) ∧
  ∀ s t : State, (∀ f rest, s.inputs ≠ .frame f :: rest) → step s = .next t →
    t.responses = s.responses

/-- The frame of every command: whatever it answers, executing it appends one response and touches nothing
else (R15, R41, R129). -/
def Obligations.ExecTouchesOnlyTheResponsePort : Prop :=
  ∀ (i : Instr) (s t : State), exec i s = .next t →
    t.inputs = s.inputs ∧ ∃ r, t.responses = s.responses ++ [r]

/-- R41: one function of the frame alone gives every response of every run, from whatever state, so that no
command affects another and responses come in command order. -/
def Obligations.ResponseIsAFunctionOfTheFrame : Prop :=
  ∃ g : Frame → Response, ∀ (s : State) (fs : List Frame), s.inputs = fs.map PortEvent.frame →
    Host.Core.run core fs.length s =
      .next { inputs := [], responses := s.responses ++ fs.map g }

/-- A reset between commands changes nothing a host can observe (R137). -/
def Obligations.ResetBetweenCommandsChangesNothing : Prop :=
  ∀ (s : State) (rest : List PortEvent), s.inputs = .reset :: rest →
    step s = .next { inputs := rest, responses := s.responses }

/-- R139: after reset the engine is idle, and the first frame the host sends is the first command. -/
def Obligations.FirstFrameAfterResetIsTheFirstCommand : Prop :=
  State.reset.inputs = [] ∧ State.reset.responses = [] ∧
    ∀ f : Frame, step (State.reset.present f) = .next { inputs := [], responses := [answer f] }

/-- The model's own choice (assumption log 4): with nothing presented a step leaves the engine as it is. -/
def Obligations.IdleEngineStaysAsItIs : Prop :=
  ∀ s : State, s.inputs = [] → step s = .next s

/-- A run of k frames is over after exactly k steps, and its responses are the observation (R152, R150). -/
def Obligations.RunOfFramesIsOverAfterAsManySteps : Prop :=
  ∀ (s : State) (fs : List Frame), s.inputs = fs.map PortEvent.frame →
    Host.Core.run core fs.length s = .next s.finished ∧ RunOver s.finished ∧
    ∀ j, j < fs.length → ∃ t : State, Host.Core.run core j s = .next t ∧ ¬ RunOver t ∧
      t.responses.length = s.responses.length + j

/-- The invariant of every step: the answers of the whole run stay what they are, those sent and those still
to send (R41, R46). -/
def Obligations.EveryStepKeepsTheAnswers : Prop :=
  ∀ (rs : List Response) (s t : State), AnswersKept rs s → step s = .next t → AnswersKept rs t

/-- The invariant holds of the state after reset, whose run has no answers yet. -/
def Obligations.ResetMeetsTheAnswersInvariant : Prop := AnswersKept [] State.reset

/-- A fault is not sticky: the command after it is executed like any other, and the same frame sent again
faults in the same way (R128, R130). -/
def Obligations.FaultsAreNotSticky : Prop :=
  ∀ (s : State) (f g : Frame) (e : CommandFault) (rest : List PortEvent),
    s.inputs = .frame f :: .frame g :: rest → answer f = .fault e →
    Host.Core.run core 2 s =
      .next { inputs := rest, responses := s.responses ++ [.fault e, answer g] } ∧
    ∀ t : State, t.inputs = .frame f :: rest →
      step t = .next { inputs := rest, responses := t.responses ++ [.fault e] }

/-- A run of GFADD, GFMUL and PEVAL commands never records a fault, however many steps are taken (R124, R86;
steps after the last event are the idle ones of assumption log 4). -/
def Obligations.AddMulAndEvalRunsAreSafe : Prop :=
  ∀ s : State, SafeSoFar s →
    (∀ f ∈ framesOf s.inputs, (∃ a b, decode f = .command (.gfadd a b)) ∨
      (∃ a b, decode f = .command (.gfmul a b)) ∨
      (∃ x c0 cs, decode f = .command (.peval x c0 cs))) →
    ∀ k, ∃ t : State, Host.Core.run core k s = .next t ∧ SafeSoFar t

/-! ### Encoding -/

/-- Decoding the frame of a well-formed command gives it back, every operand at every value (R48 to R51,
R55, R58). -/
def Obligations.DecodeOfEncodeIsTheCommand : Prop :=
  ∀ i : Instr, i.wellFormed = true → decode (encode i) = .command i

/-- A frame that decodes is the frame of the command it decodes to, and the command is well formed: no byte
of a legal frame is ignored (R55, R58). -/
def Obligations.EncodeOfDecodeIsTheFrame : Prop :=
  ∀ (f : Frame) (i : Instr), decode f = .command i → encode i = f ∧ i.wellFormed = true

/-- A few frames written out from the formats of R48 to R50 decode to the commands they stand for. -/
def Obligations.FramesOfTheFormatsDecode : Prop :=
  decode [0x01, 0x57, 0x83] = .command (.gfadd 0x57 0x83) ∧
  decode [0x02, 0x57, 0x13] = .command (.gfmul 0x57 0x13) ∧
  decode [0x03, 0x02, 0x03] = .command (.gfdiv 0x02 0x03) ∧
  decode [0x04, 0x03, 0x02, 0x48, 0x1d, 0xa7] = .command (.peval 0x02 0x48 [0x1d, 0xa7]) ∧
  decode [0x05, 0x02, 0x02, 0xd8, 0x04, 0xa2] =
    .command (.linterp ⟨0x02, 0xd8⟩ [⟨0x04, 0xa2⟩])

/-- R56: exactly the empty frame and the frames whose first byte is 0x00 or 0x06 to 0xFF get
`IllegalCommand`, `[0x02, 0x00]`, and nothing else happens. -/
def Obligations.IllegalCommandExactly : Prop :=
  ∀ f : Frame,
    (answer f = .fault .illegalCommand ↔
      f = [] ∨ ∃ op rest, f = op :: rest ∧ (op = 0x00 ∨ 0x06 ≤ op.toNat)) ∧
    (answer f = .fault .illegalCommand → (answer f).bytes = [0x02, 0x00] ∧
      ∀ (s : State) (others : List PortEvent), s.inputs = .frame f :: others →
        step s = .next { inputs := others, responses := s.responses ++ [.fault .illegalCommand] })

/-- R57: exactly the frames of a legal opcode whose length or count the format does not allow get
`BadLength`, `[0x03, 0x00]`. -/
def Obligations.BadLengthExactly : Prop :=
  ∀ f : Frame,
    (answer f = .fault .badLength ↔ ∃ (op : Byte) (rest : List Byte), f = op :: rest ∧
      (((op = 0x01 ∨ op = 0x02 ∨ op = 0x03) ∧ f.length ≠ 3) ∨
       (op = 0x04 ∧ (f.length < 2 ∨ ∃ n cs, rest = n :: cs ∧ (n = 0 ∨ f.length ≠ n.toNat + 3))) ∨
       (op = 0x05 ∧
         (f.length < 2 ∨ ∃ m ps, rest = m :: ps ∧ (m = 0 ∨ f.length ≠ 2 * m.toNat + 2))))) ∧
    (answer f = .fault .badLength → (answer f).bytes = [0x03, 0x00])

/-- R121: execution raises `DivideByZero` exactly for a GFDIV by 0x00 and a LINTERP with two points of equal
x, and no other fault. -/
def Obligations.DivideByZeroExactly : Prop :=
  ∀ (i : Instr) (s : State),
    (exec i s = .next { inputs := s.inputs, responses := s.responses ++ [.fault .divideByZero] } ↔
      (∃ a, i = .gfdiv a 0x00) ∨ ∃ p0 ps, i = .linterp p0 ps ∧ ¬ DistinctX (p0 :: ps)) ∧
    ∀ e, exec i s = .next { inputs := s.inputs, responses := s.responses ++ [.fault e] } →
      e = .divideByZero

/-- R63: a legal frame has 3 to 512 bytes, a PEVAL at most 258, and both bounds are reached. -/
def Obligations.LegalFrameSizes : Prop :=
  (∀ (f : Frame) (i : Instr), decode f = .command i → 3 ≤ f.length ∧ f.length ≤ 512) ∧
  (∀ (f : Frame) (x c0 : Byte) (cs : List Byte), decode f = .command (.peval x c0 cs) →
    f.length ≤ 258) ∧
  (∀ a b, ∃ f, decode f = .command (.gfadd a b) ∧ f.length = 3) ∧
  (∀ x c0 (cs : List Byte), cs.length = 254 →
    ∃ f, decode f = .command (.peval x c0 cs) ∧ f.length = 258) ∧
  (∀ p0 (ps : List Point), ps.length = 254 →
    ∃ f, decode f = .command (.linterp p0 ps) ∧ f.length = 512)

/-- R52 and R53: a response is two bytes, its status 0x00 to 0x03 and its result 0x00 on a fault, and a host
that reads it gets the response back. -/
def Obligations.ResponseFrameIsStatusAndResult : Prop :=
  (∀ v, (Response.ok v).bytes = [0x00, v]) ∧
  (Response.fault .divideByZero).bytes = [0x01, 0x00] ∧
  (Response.fault .illegalCommand).bytes = [0x02, 0x00] ∧
  (Response.fault .badLength).bytes = [0x03, 0x00] ∧
  (∀ f : Frame, ∃ st v, (answer f).bytes = [st, v] ∧ st.toNat ≤ 3 ∧ (st ≠ 0x00 → v = 0x00)) ∧
  ∀ r : Response, Response.ofBytes r.bytes = some r

/-- The pseudo-commands' expansions mean what their names say (R61): GFSUB undoes addition, GFINV answers the
inverse, and both expansions of GFPOW give the k-th power. -/
def Obligations.PseudoCommandsMeanTheirNames : Prop :=
  (∀ a b, commandResponse (pseudoGfsub (gfAdd a b) b) = .ok a) ∧
  (∀ a, gfAdd a (pseudoGfneg a) = 0x00) ∧
  (∀ a, a ≠ 0x00 → ∃ v, commandResponse (pseudoGfinv a) = .ok v ∧ gfMul a v = 0x01) ∧
  (∀ a k, 1 ≤ k → pseudoGfpowByMul a k = gfPow a k) ∧
  ∀ a k, 1 ≤ k → k ≤ 254 → ∃ i, pseudoGfpow a k = some i ∧ i.wellFormed = true ∧
    commandResponse i = .ok (gfPow a k)

/-! ### The field and the tables -/

/-- R16: addition and `fmul` are the sum and the product of polynomials over GF(2), the product reduced
modulo x^8 + x^4 + x^3 + x + 1. Bit i of a byte is the coefficient of
x^i, which the spec takes from general knowledge (R9, assumption log 12). -/
def Obligations.FmulIsThePolynomialProductModulo : Prop :=
  let poly : Byte → Polynomial (ZMod 2) := fun v =>
    ∑ i ∈ Finset.range 8, if v.getLsbD i then Polynomial.X ^ i else 0
  ∀ a b : Byte,
    poly (a ^^^ b) = poly a + poly b ∧
    poly (fmul a b) = Polynomial.modByMonic (poly a * poly b)
      (Polynomial.X ^ 8 + Polynomial.X ^ 4 + Polynomial.X ^ 3 + Polynomial.X + 1)

/-- 0x11b is the product of no two polynomials of lower degree, and every nonzero byte has a multiplicative
inverse (R17). -/
def Obligations.ReductionPolynomialIsIrreducible : Prop :=
  (∀ a b : Byte, clmul a b ≠ 0x11b) ∧
  ∀ a : Byte, a ≠ 0x00 → ∃ b, fmul a b = 0x01

/-- The generators of the field are the 128 the spec lists; 0x03 is one and the least, and 0x02, of order 51,
is none (R18). -/
def Obligations.GeneratorsAreTheListedOnes : Prop :=
  (∀ g : Byte, IsGenerator g ↔ g ∈ generators) ∧ generators.length = 128 ∧ generators.Nodup ∧
  IsGenerator Config.GEN ∧ (∀ g : Byte, IsGenerator g → Config.GEN.toNat ≤ g.toNat) ∧
  fpow 0x02 51 = 0x01 ∧ ∀ k, 1 ≤ k → k < 51 → fpow 0x02 k ≠ 0x01

/-- R19: `EXP[i]` is the i-th power of `GEN`, and `LOG[a]` the one i in 0 to 254 with `EXP[i]` = a. -/
def Obligations.TablesAreThePowersOfTheGenerator : Prop :=
  (∀ i, i ≤ 254 → rom.EXP (BitVec.ofNat 8 i) = fpow Config.GEN i) ∧ rom.EXP 0x00 = 0x01 ∧
  (∀ a : Byte, a ≠ 0x00 → (rom.LOG a).toNat ≤ 254 ∧ rom.EXP (rom.LOG a) = a ∧
    ∀ i, i ≤ 254 → rom.EXP (BitVec.ofNat 8 i) = a → i = (rom.LOG a).toNat) ∧
  ∀ i, i ≤ 254 → rom.EXP (BitVec.ofNat 8 i) ≠ 0x00 ∧
    (rom.LOG (rom.EXP (BitVec.ofNat 8 i))).toNat = i

/-- The construction loop from `GEN` gives the tables, its running power is 0x01 again at the end, and its
step is `v ^ xtime(v)` (R20 to R22). -/
def Obligations.ConstructionLoopBuildsTheTables : Prop :=
  (∀ i, i ≤ 254 → (buildTables Config.GEN).EXP (BitVec.ofNat 8 i) = rom.EXP (BitVec.ofNat 8 i)) ∧
  (∀ a : Byte, a ≠ 0x00 → (buildTables Config.GEN).LOG a = rom.LOG a) ∧
  fpow Config.GEN 255 = 0x01 ∧ ∀ v : Byte, fmul v Config.GEN = v ^^^ xtime v

/-- R25: the laws of the tables, (a) to (f). -/
def Obligations.LawsOfTheTables : Prop :=
  (∀ a : Byte, a ≠ 0x00 → rom.EXP (rom.LOG a) = a) ∧
  (∀ i, i ≤ 254 → (rom.LOG (rom.EXP (BitVec.ofNat 8 i))).toNat = i) ∧
  (rom.EXP 0x00 = 0x01 ∧ rom.LOG 0x01 = 0x00) ∧
  rom.LOG Config.GEN = 0x01 ∧
  (∀ i j, i ≤ 254 → j ≤ 254 → rom.EXP (BitVec.ofNat 8 ((i + j) % 255)) =
    fmul (rom.EXP (BitVec.ofNat 8 i)) (rom.EXP (BitVec.ofNat 8 j))) ∧
  ∀ a : Byte, a ≠ 0x00 → (rom.LOG a).toNat ≤ 254

/-- No product and no quotient reads `LOG[0]` or `EXP[255]`: tables that agree on the other entries give the
same ones (R23). -/
def Obligations.UnspecifiedEntriesAreNeverRead : Prop :=
  ∀ t : Tables, (∀ a : Byte, a ≠ 0x00 → t.LOG a = rom.LOG a) →
    (∀ i : Byte, i ≠ 0xff → t.EXP i = rom.EXP i) →
    ∀ a b, t.gfMul a b = gfMul a b ∧ t.gfDiv a b = gfDiv a b

/-- R34: every index the multiplier and the divider compute lies inside its table, and 9 bits hold every
intermediate value. -/
def Obligations.TableIndicesAreInBounds : Prop :=
  ∀ a b : Byte, a ≠ 0x00 → b ≠ 0x00 →
    mulSum (rom.LOG a) (rom.LOG b) ≤ 508 ∧
    1 ≤ divSum (rom.LOG a) (rom.LOG b) ∧ divSum (rom.LOG a) (rom.LOG b) ≤ 509 ∧
    mulSum (rom.LOG a) (rom.LOG b) % 255 ≤ 254 ∧ divSum (rom.LOG a) (rom.LOG b) % 255 ≤ 254 ∧
    mulSum (rom.LOG a) (rom.LOG b) < 2 ^ 9 ∧ divSum (rom.LOG a) (rom.LOG b) < 2 ^ 9

/-- R78: the divider's index is the difference of the logarithms, 255 added where it would be negative; the
sum is 255 exactly when the operands are equal, and then the quotient is 0x01. -/
def Obligations.DividerIndexIsTheDifferenceOfLogs : Prop :=
  ∀ a b : Byte, a ≠ 0x00 → b ≠ 0x00 →
    let la := (rom.LOG a).toNat
    let lb := (rom.LOG b).toNat
    let d := divSum (rom.LOG a) (rom.LOG b)
    1 ≤ d ∧ d ≤ 509 ∧ d % 255 ≤ 254 ∧
    (d ≤ 254 → d % 255 = d) ∧ (255 ≤ d → d % 255 = d - 255) ∧
    (lb ≤ la → d % 255 = la - lb) ∧ (la < lb → d % 255 = la + 255 - lb) ∧
    (d = 255 ↔ a = b) ∧ (a = b → gfDiv a b = some 0x01)

/-- R72: the table-driven multiplier is the field's product, on all 65,536 pairs. -/
def Obligations.MultiplierAgreesWithTheField : Prop := ∀ a b : Byte, gfMul a b = fmul a b

/-- R75: tables built from any generator give the same product and the same quotient, value for value; those
of 0x02, which is none, do not (0x03 times 0x03 is one product they miss, whatever the fill values are). -/
def Obligations.ProductAndQuotientDoNotDependOnTheGenerator : Prop :=
  (∀ g : Byte, IsGenerator g → ∀ a b,
    (buildTables g).gfMul a b = gfMul a b ∧ (buildTables g).gfDiv a b = gfDiv a b) ∧
  ∃ a b, (buildTables 0x02).gfMul a b ≠ fmul a b

/-! ### GFADD -/

/-- R65 and R67: the adder works bit by bit, and its laws. -/
def Obligations.AdderIsBitwiseAndItsLaws : Prop :=
  (∀ (a b : Byte) (i : Nat), i < 8 → (gfAdd a b).getLsbD i = (a.getLsbD i ^^ b.getLsbD i)) ∧
  (∀ a b, gfAdd a b = gfAdd b a) ∧ (∀ a b c, gfAdd (gfAdd a b) c = gfAdd a (gfAdd b c)) ∧
  (∀ a, gfAdd a 0x00 = a) ∧ (∀ a, gfAdd a a = 0x00) ∧ ∀ a b, gfAdd (gfAdd a b) b = a

/-- R66: command GFADD. -/
def Obligations.GfaddAnswersTheSum : Prop :=
  (∀ (a b : Byte) (s : State), exec (.gfadd a b) s =
    .next { inputs := s.inputs, responses := s.responses ++ [.ok (a ^^^ b)] }) ∧
  (∀ a b, encode (.gfadd a b) = [0x01, a, b] ∧ decode [0x01, a, b] = .command (.gfadd a b)) ∧
  (∀ rest : List Byte, rest.length ≠ 2 → answer (0x01 :: rest) = .fault .badLength) ∧
  (∀ a b, answer [0x01, a, a] = .ok 0x00 ∧ answer [0x01, a, 0x00] = .ok a ∧
    answer [0x01, a, b] = answer [0x01, b, a]) ∧
  (answer [0x01, 0x57, 0x83]).bytes = [0x00, 0xd4]

/-! ### GFMUL -/

/-- Command GFMUL (R69, R70): the zero test, else the entry of `EXP` at the sum of the logarithms modulo
255. -/
def Obligations.GfmulAnswersTheProduct : Prop :=
  (∀ (a b : Byte) (s : State), (a = 0x00 ∨ b = 0x00) → exec (.gfmul a b) s =
    .next { inputs := s.inputs, responses := s.responses ++ [.ok 0x00] }) ∧
  (∀ (a b : Byte) (s : State), a ≠ 0x00 → b ≠ 0x00 → exec (.gfmul a b) s =
    .next { inputs := s.inputs, responses := s.responses ++
      [.ok (rom.EXP (BitVec.ofNat 8 (((rom.LOG a).toNat + (rom.LOG b).toNat) % 255)))] }) ∧
  (∀ a b, encode (.gfmul a b) = [0x02, a, b] ∧ decode [0x02, a, b] = .command (.gfmul a b)) ∧
  (∀ rest : List Byte, rest.length ≠ 2 → answer (0x02 :: rest) = .fault .badLength) ∧
  (answer [0x02, 0x57, 0x83]).bytes = [0x00, 0xc1]

/-- R73: the laws of `gf_mul`, (a) to (g). -/
def Obligations.LawsOfMultiplication : Prop :=
  (∀ a b, gfMul a b = gfMul b a) ∧ (∀ a b c, gfMul (gfMul a b) c = gfMul a (gfMul b c)) ∧
  (∀ a, gfMul a 0x01 = a) ∧ (∀ a, gfMul a 0x00 = 0x00) ∧
  (∀ a b c, gfMul a (gfAdd b c) = gfAdd (gfMul a b) (gfMul a c)) ∧
  (∀ a b, gfMul a b = 0x00 → a = 0x00 ∨ b = 0x00) ∧
  ∀ a, a ≠ 0x00 → ∃ b, gfDiv 0x01 a = some b ∧ gfMul a b = 0x01 ∧ ∀ c, gfMul a c = 0x01 → c = b

/-! ### GFDIV -/

/-- Command GFDIV (R76, R77): the divisor test, then the zero dividend, else the entry of `EXP` at the
difference of the logarithms. -/
def Obligations.GfdivAnswersTheQuotient : Prop :=
  (∀ (a b : Byte) (s : State), a ≠ 0x00 → b ≠ 0x00 → exec (.gfdiv a b) s =
    .next { inputs := s.inputs, responses := s.responses ++
      [.ok (rom.EXP (BitVec.ofNat 8 (((rom.LOG a).toNat + 255 - (rom.LOG b).toNat) % 255)))] }) ∧
  (∀ (b : Byte) (s : State), b ≠ 0x00 → exec (.gfdiv 0x00 b) s =
    .next { inputs := s.inputs, responses := s.responses ++ [.ok 0x00] }) ∧
  (∀ (a : Byte) (s : State), exec (.gfdiv a 0x00) s =
    .next { inputs := s.inputs, responses := s.responses ++ [.fault .divideByZero] }) ∧
  (∀ a b, encode (.gfdiv a b) = [0x03, a, b] ∧ decode [0x03, a, b] = .command (.gfdiv a b)) ∧
  (∀ rest : List Byte, rest.length ≠ 2 → answer (0x03 :: rest) = .fault .badLength) ∧
  (answer [0x03, 0x57, 0x83]).bytes = [0x00, 0x38]

/-- R79: a division by zero has no value, for any dividend and over any tables, and inside LINTERP a zero
denominator ends the whole command. -/
def Obligations.DivisionByZeroHasNoValue : Prop :=
  (∀ (t : Tables) (a : Byte), t.gfDiv a 0x00 = none) ∧
  (∀ a, (answer [0x03, a, 0x00]).bytes = [0x01, 0x00]) ∧
  ∀ (p0 : Point) (ps : List Point) (s : State),
    (∃ j p, (p0 :: ps)[j]? = some p ∧ lagrangeDen p.x ((p0 :: ps).eraseIdx j) = 0x00) →
    exec (.linterp p0 ps) s =
      .next { inputs := s.inputs, responses := s.responses ++ [.fault .divideByZero] }

/-- R80: the laws of `gf_div`, (a) to (g). -/
def Obligations.LawsOfDivision : Prop :=
  ∀ b, b ≠ 0x00 →
    (∀ a, ∃ q, gfDiv a b = some q ∧ gfMul q b = a) ∧ (∀ a, gfDiv (gfMul a b) b = some a) ∧
    (∀ a, gfDiv a 0x01 = some a) ∧ gfDiv b b = some 0x01 ∧ gfDiv 0x00 b = some 0x00 ∧
    ∃ v, gfDiv 0x01 b = some v ∧ gfMul b v = 0x01 ∧ ∀ a, gfDiv a b = some (gfMul a v)

/-! ### PEVAL -/

/-- R82: command PEVAL. -/
def Obligations.PevalAnswersThePolynomialValue : Prop :=
  (∀ (x c0 : Byte) (cs : List Byte) (s : State), exec (.peval x c0 cs) s =
    .next { inputs := s.inputs, responses := s.responses ++ [.ok (peval x c0 cs)] }) ∧
  (∀ (x c0 : Byte) (cs : List Byte), cs.length ≤ 254 →
    decode ([0x04, BitVec.ofNat 8 (cs.length + 1), x, c0] ++ cs) = .command (.peval x c0 cs) ∧
    encode (.peval x c0 cs) = [0x04, BitVec.ofNat 8 (cs.length + 1), x, c0] ++ cs) ∧
  answer [0x04] = .fault .badLength ∧
  (∀ (n : Byte) (rest : List Byte), (n = 0x00 ∨ rest.length ≠ n.toNat + 1) →
    answer (0x04 :: n :: rest) = .fault .badLength) ∧
  (answer [0x04, 0x03, 0x02, 0x48, 0x1d, 0xa7]).bytes = [0x00, 0xd8]

/-- The evaluator starts from the last coefficient and, for each one before it from the top down, multiplies
by x and adds it (R83). -/
def Obligations.HornerRunsFromTheTopCoefficientDown : Prop :=
  ∀ (x c0 top : Byte) (cs front : List Byte), c0 :: cs = front ++ [top] →
    peval x c0 cs = front.reverse.foldl (fun acc ck => gfAdd (gfMul acc x) ck) top

/-- R84: the evaluator's value is the field sum of the terms `c_k · x^k`. -/
def Obligations.EvaluatorGivesThePolynomialSum : Prop :=
  ∀ (x c0 : Byte) (cs : List Byte), peval x c0 cs = polynomialValue x (c0 :: cs)

/-- R85: the evaluator's corner cases. -/
def Obligations.EvaluatorCornerCases : Prop :=
  (∀ x c0, peval x c0 [] = c0) ∧ (∀ c0 cs, peval 0x00 c0 cs = c0) ∧
  (∀ c0 cs, peval 0x01 c0 cs = gfSum (c0 :: cs)) ∧
  (∀ x c0 k, peval x c0 (List.replicate k 0x00) = c0) ∧
  peval 0x02 0x00 [0x00, 0x00, 0x01] = 0x08 ∧ peval 0x53 0x00 [0x01] = 0x53 ∧
  peval 0x99 0x12 [] = 0x12 ∧
  peval 0x03 0x01 (List.replicate 254 0x01) = 0x00 ∧
  peval 0x01 0x01 (List.replicate 254 0x01) = 0x01

/-! ### LINTERP -/

/-- Command LINTERP (R89): on points of pairwise distinct x it answers the value at 0 of a polynomial of
degree at most M - 1 through them; on two points of equal x it faults. -/
def Obligations.LinterpAnswersTheValueAtZero : Prop :=
  (∀ (p0 : Point) (ps : List Point) (s : State), DistinctX (p0 :: ps) →
    ∃ c0 cs, cs.length = ps.length ∧ (∀ p ∈ p0 :: ps, peval p.x c0 cs = p.y) ∧
      exec (.linterp p0 ps) s =
        .next { inputs := s.inputs, responses := s.responses ++ [.ok (peval 0x00 c0 cs)] }) ∧
  (∀ (p0 : Point) (ps : List Point) (s : State), ¬ DistinctX (p0 :: ps) →
    exec (.linterp p0 ps) s =
      .next { inputs := s.inputs, responses := s.responses ++ [.fault .divideByZero] }) ∧
  (∀ (p0 : Point) (ps : List Point), ps.length ≤ 254 →
    decode ([0x05, BitVec.ofNat 8 (ps.length + 1)] ++ (p0 :: ps).flatMap Point.bytes) =
      .command (.linterp p0 ps)) ∧
  answer [0x05] = .fault .badLength ∧
  (∀ (m : Byte) (rest : List Byte), (m = 0x00 ∨ rest.length ≠ 2 * m.toNat) →
    answer (0x05 :: m :: rest) = .fault .badLength) ∧
  (answer [0x05, 0x03, 0x01, 0xf2, 0x03, 0x62, 0x05, 0x18]).bytes = [0x00, 0x48]

/-- The loop with one division a point gives what the formula read as a product of quotients
gives, value and fault alike, and the order of the factors does not matter (R91, R92). -/
def Obligations.BothReadingsOfTheFormulaAgree : Prop :=
  (∀ pts : List Point, linterp pts = lagrangeFormula pts) ∧
  ∀ (p : Point) (others others' : List Point), others.Perm others' →
    lagrangeTerm p others = lagrangeTerm p others'

/-- R93: the denominator of a point is 0x00 exactly when it has a twin; the fault comes at the least such
point, whatever the y values, and exactly when the x values are not pairwise distinct. -/
def Obligations.InterpolatorFaultsExactlyOnEqualX : Prop :=
  (∀ (pts : List Point) (j : Nat) (p : Point), pts[j]? = some p →
    (lagrangeDen p.x (pts.eraseIdx j) = 0x00 ↔ ∃ k q, k ≠ j ∧ pts[k]? = some q ∧ q.x = p.x)) ∧
  (∀ (pts : List Point) (j : Nat),
    (∀ i p, i < j → pts[i]? = some p → lagrangeDen p.x (pts.eraseIdx i) ≠ 0x00) →
    (lagrangeLoop pts 0 (pts.take j) 0x00).isSome = true) ∧
  (∀ (pts : List Point) (j : Nat) (p : Point), pts[j]? = some p →
    lagrangeDen p.x (pts.eraseIdx j) = 0x00 → lagrangeTerm p (pts.eraseIdx j) = none) ∧
  ∀ p0 ps, (linterp (p0 :: ps) = none ↔ ¬ DistinctX (p0 :: ps)) ∧
    (¬ DistinctX (p0 :: ps) → (commandResponse (.linterp p0 ps)).bytes = [0x01, 0x00])

/-- R94: the interpolator's corner cases: one point, and a point at x = 0. -/
def Obligations.InterpolatorCornerCases : Prop :=
  (∀ p : Point, linterp [p] = some p.y) ∧
  (∀ (pts : List Point) (p : Point), DistinctX pts → p ∈ pts → p.x = 0x00 → linterp pts = some p.y) ∧
  linterp [⟨0x07, 0x99⟩] = some 0x99 ∧
  linterp [⟨0x02, 0xd8⟩, ⟨0x04, 0xa2⟩] = some 0x07 ∧
  linterp [⟨0x00, 0x48⟩, ⟨0x01, 0xf2⟩, ⟨0x02, 0xd8⟩] = some 0x48 ∧
  linterp [⟨0x01, 0xf2⟩, ⟨0x01, 0xf2⟩] = none ∧
  linterp [⟨0x01, 0xf2⟩, ⟨0x02, 0xd8⟩, ⟨0x01, 0x00⟩] = none ∧
  linterp [⟨0x00, 0x01⟩, ⟨0x00, 0x02⟩] = none ∧
  linterp [⟨0x01, 0xf2⟩, ⟨0x02, 0xd8⟩, ⟨0x03, 0x62⟩, ⟨0x04, 0xa2⟩, ⟨0x05, 0x18⟩] = some 0x48 ∧
  linterp [⟨0x05, 0x18⟩, ⟨0x01, 0xf2⟩, ⟨0x03, 0x62⟩] = some 0x48

/-- R95: the result is the same for every permutation of the points, and so is whether there is a fault
(R92). -/
def Obligations.InterpolationIgnoresTheOrderOfPoints : Prop :=
  ∀ pts pts' : List Point, pts.Perm pts' → linterp pts = linterp pts'

/-- R96: through points of pairwise distinct x there is exactly one polynomial of degree at most M - 1, and
the result is its constant term; so M ≥ t values of one coefficient list of length t give back its first
coefficient. -/
def Obligations.InterpolationRecoversTheConstantTerm : Prop :=
  (∀ (p0 : Point) (ps : List Point), DistinctX (p0 :: ps) →
    ∃ c0 cs, cs.length = ps.length ∧ (∀ p ∈ p0 :: ps, peval p.x c0 cs = p.y) ∧
      linterp (p0 :: ps) = some c0 ∧
      ∀ d0 ds, ds.length = ps.length → (∀ p ∈ p0 :: ps, peval p.x d0 ds = p.y) →
        d0 = c0 ∧ ds = cs) ∧
  ∀ (c0 : Byte) (cs xs : List Byte), xs.Nodup → cs.length + 1 ≤ xs.length →
    linterp (xs.map fun x => ⟨x, peval x c0 cs⟩) = some c0

/-! ### Host sequences -/

/-- R104: split's validation, in its order; on an error no randomness is drawn and the engine gets no
command; when every test passes there is a list of shares. -/
def Obligations.SplitValidatesInOrder : Prop :=
  ∀ (secret : List Byte) (n t : Int) (rng : Nat → Byte) (s : State),
    ((n < 2 ∨ 255 < n) → split secret n t rng s = ⟨s, 0, .error .invalidShareCount⟩) ∧
    (2 ≤ n ∧ n ≤ 255 → (t < 2 ∨ 255 < t) →
      split secret n t rng s = ⟨s, 0, .error .invalidThreshold⟩) ∧
    (2 ≤ n ∧ n ≤ 255 → 2 ≤ t ∧ t ≤ 255 → n < t →
      split secret n t rng s = ⟨s, 0, .error .sharesLessThanThreshold⟩) ∧
    (2 ≤ n ∧ n ≤ 255 → 2 ≤ t ∧ t ≤ 255 → t ≤ n → secret = [] →
      split secret n t rng s = ⟨s, 0, .error .emptySecret⟩) ∧
    (s.inputs = [] → 2 ≤ t → t ≤ n → n ≤ 255 → secret ≠ [] →
      ∃ shares, (split secret n t rng s).result = .ok shares)

/-- Split's shares (R105 to R107), byte by byte: share j begins with j and holds, for each byte of the secret, the
value at j of that position's polynomial, whose coefficients are the draws in order; n·L commands and
(t - 1)·L draws. -/
def Obligations.SplitGivesThePolynomialValues : Prop :=
  ∀ (secret : List Byte) (n t : Nat) (rng : Nat → Byte) (s : State),
    s.inputs = [] → 2 ≤ t → t ≤ n → n ≤ 255 → secret ≠ [] →
    (split secret n t rng s).result = .ok ((List.range n).map fun j =>
      BitVec.ofNat 8 (j + 1) :: secret.mapIdx fun i c0 =>
        peval (BitVec.ofNat 8 (j + 1)) c0 ((List.range (t - 1)).map fun k => rng (i * (t - 1) + k))) ∧
    (split secret n t rng s).draws = (t - 1) * secret.length ∧
    (split secret n t rng s).engine.inputs = [] ∧
    (split secret n t rng s).engine.responses.length = s.responses.length + n * secret.length

/-- Combine's validation, in its order (R111). The duplicate check is stated for shares of common length at
least 2, and the last clause takes in none or one share of any length: how R111 meets the share sets of R114
(a), a single share of length 0 or 1 among them, is the model's choice (assumption log 10, DEDUCED). -/
def Obligations.CombineValidatesInOrder : Prop :=
  ∀ (shares : List Share) (s : State),
    ((∃ a ∈ shares, ∃ b ∈ shares, a.length ≠ b.length) →
      combine shares s = ⟨s, 0, .error .inconsistentShareLength⟩) ∧
    (∀ L, 2 ≤ L → (∀ a ∈ shares, a.length = L) → ¬ (shares.map fun a => byteAt a 0).Nodup →
      combine shares s = ⟨s, 0, .error .duplicateShares⟩) ∧
    (shares.length < 2 → combine shares s = ⟨s, 0, .error .shareCountMismatch⟩)

/-- Combine sends one LINTERP for each byte position, the points in the order of the shares, and returns the
results in order (R113). -/
def Obligations.CombineInterpolatesEachPosition : Prop :=
  ∀ (shares : List Share) (L : Nat) (s : State), s.inputs = [] → 1 ≤ L →
    2 ≤ shares.length → shares.length ≤ 255 → (∀ a ∈ shares, a.length = L + 1) →
    (shares.map fun a => byteAt a 0).Nodup →
    ∃ secret : List Byte, secret.length = L ∧ (combine shares s).result = .ok secret ∧
      (combine shares s).engine =
        { inputs := [], responses := s.responses ++ secret.map Response.ok } ∧
      ∀ i, i < L →
        linterp (shares.map fun a => ⟨byteAt a 0, byteAt a (1 + i)⟩) = some (byteAt secret i)

/-- The share sets the spec gives no meaning are refused, those of two or more shares of length 0 or 1
(assumption log 10) and 256 shares; a share with index 0 gives its own payload (R114). -/
def Obligations.CombineRefusesMeaninglessShareSets : Prop :=
  (∀ (shares : List Share) (L : Nat) (s : State), 2 ≤ shares.length → L < 2 →
    (∀ a ∈ shares, a.length = L) → combine shares s = ⟨s, 0, .refused .shortShares⟩) ∧
  (∀ (shares : List Share) (L : Nat) (s : State), shares.length = 256 → 2 ≤ L →
    (∀ a ∈ shares, a.length = L) → (shares.map fun a => byteAt a 0).Nodup →
    combine shares s = ⟨s, 0, .refused .tooManyShares⟩) ∧
  ∀ (shares : List Share) (share : Share) (L : Nat) (s : State), s.inputs = [] → 2 ≤ L →
    2 ≤ shares.length → shares.length ≤ 255 → (∀ a ∈ shares, a.length = L) →
    (shares.map fun a => byteAt a 0).Nodup → share ∈ shares → byteAt share 0 = 0x00 →
    (combine shares s).result = .ok (share.drop 1)

/-- A host that follows the sequences never sees a fault of the engine (R116). -/
def Obligations.HostSequencesNeverMeetAFault : Prop :=
  (∀ (secret : List Byte) (n t : Int) (rng : Nat → Byte) (s : State), s.inputs = [] →
    (split secret n t rng s).result ≠ .broken ∧
    ∀ r ∈ (split secret n t rng s).engine.responses.drop s.responses.length, r.isFault = false) ∧
  ∀ (shares : List Share) (s : State), s.inputs = [] →
    (combine shares s).result ≠ .broken ∧
    ∀ r ∈ (combine shares s).engine.responses.drop s.responses.length, r.isFault = false

/-- R115: combine of any t or more of the shares of one split, in any order, returns the secret; and it is
deterministic. -/
def Obligations.SplitThenCombineReturnsTheSecret : Prop :=
  (∀ (secret : List Byte) (n t : Int) (rng : Nat → Byte) (s s' : State) (shares chosen : List Share),
    s.inputs = [] → s'.inputs = [] → (split secret n t rng s).result = .ok shares →
    chosen.Nodup → (∀ a ∈ chosen, a ∈ shares) → t ≤ chosen.length →
    (combine chosen s').result = .ok secret) ∧
  ∀ (shares : List Share) (s s' : State), s.inputs = [] → s'.inputs = [] →
    (combine shares s).result = (combine shares s').result

/-- R109: t - 1 points at distinct nonzero x are consistent with every secret byte, with exactly one
coefficient list each. -/
def Obligations.FewerThanThresholdPointsFitEverySecret : Prop :=
  ∀ (pts : List Point) (secret : Byte), DistinctX pts → (∀ p ∈ pts, p.x ≠ 0x00) →
    ∃ cs, cs.length = pts.length ∧ (∀ p ∈ pts, peval p.x secret cs = p.y) ∧
      ∀ ds, ds.length = pts.length → (∀ p ∈ pts, peval p.x secret ds = p.y) → ds = cs

/-- The concrete scenario of R119 (e): "HELLO" in five shares of threshold three has five shares of six bytes;
any three or more of them, in any order, recover it; any two are not rejected (R112, C4), and there is a draw
for which no two recover it. -/
def Obligations.HelloScenario : Prop :=
  (∀ (rng : Nat → Byte) (s : State), s.inputs = [] →
    (∃ shares, (helloSplit rng s).result = .ok shares ∧ shares.length = 5 ∧
      ∀ share ∈ shares, share.length = 6) ∧
    ∀ chosen : List Nat, chosen.Nodup → (∀ j ∈ chosen, j < 5) →
      (3 ≤ chosen.length → (helloScenario rng chosen s).result = .ok helloSecret) ∧
      (chosen.length = 2 → ∃ v, v.length = 5 ∧ (helloScenario rng chosen s).result = .ok v)) ∧
  ∃ rng : Nat → Byte, ∀ (chosen : List Nat) (s : State), s.inputs = [] → chosen.Nodup →
    (∀ j ∈ chosen, j < 5) → chosen.length = 2 →
    (helloScenario rng chosen s).result ≠ .ok helloSecret

/-- The other testable properties of R119 on the host programs: (a) the round trip of every t-subset in every
order; (b) t - 1 shares fit any two secrets; (c) the validation examples; (d) determinism of combine; (f) the
field self-check. -/
def Obligations.TestablePropertiesOfTheSequences : Prop :=
  (∀ (secret : List Byte) (n t : Nat) (rng : Nat → Byte) (chosen : List Nat) (s : State),
    s.inputs = [] → secret ≠ [] → 2 ≤ t → t ≤ n → n ≤ 255 → chosen.Nodup → (∀ j ∈ chosen, j < n) →
    chosen.length = t → (roundTrip secret n t rng chosen s).result = .ok secret) ∧
  (∀ (pts : List Point) (secret secret' : Byte) (s : State), s.inputs = [] → pts.length ≤ 254 →
    DistinctX pts → (∀ p ∈ pts, p.x ≠ 0x00) → secret ≠ secret' →
    ∃ cs cs', cs.length = pts.length ∧ cs'.length = pts.length ∧
      pointsFit pts secret cs s = true ∧ pointsFit pts secret' cs' s = true) ∧
  (∀ (secret : List Byte) (rng : Nat → Byte) (s : State),
    splitExamples secret rng s =
      [.error .invalidShareCount, .error .sharesLessThanThreshold, .error .emptySecret]) ∧
  (∀ (share long : Share) (index : Byte) (p q : List Byte) (s : State), 2 ≤ share.length →
    share.length < long.length → 1 ≤ p.length → p.length = q.length →
    combineExamples share long index p q s =
      [.error .shareCountMismatch, .error .shareCountMismatch, .error .inconsistentShareLength,
        .error .duplicateShares]) ∧
  (∀ (shares : List Share) (s : State), s.inputs = [] →
    (combineTwice shares s).1 = (combineTwice shares s).2) ∧
  ∀ (a : Byte) (s : State), s.inputs = [] → a ≠ 0x00 →
    ∃ u, u.inputs = [] ∧ fieldSelfCheck a s = (u, true)

/-! ### Several engines -/

/-- Engines do not interact: under any schedule each goes through its own steps and no other's (R42, R136). -/
def Obligations.EnginesDoNotInteract : Prop :=
  ∀ (schedule : List Nat) (engines : List State) (k : Nat),
    (runEngines schedule engines)[k]? =
      engines[k]?.map (fun s => State.advance^[schedule.count k] s)
end

