-- ==== Sys2Proof/Laws/Field.lean ====
section
/-! SUPPORT. Small lemmas of the units' functions. -/

namespace Sys2Proof.Machine

@[simp] theorem gfAdd_zero_right (a : Byte) : gfAdd a 0x00 = a := by simp [gfAdd]
@[simp] theorem gfAdd_zero_left (a : Byte) : gfAdd 0x00 a = a := by simp [gfAdd]

@[simp] theorem gfMul_zero_left (b : Byte) : gfMul 0x00 b = 0x00 := by
  simp [gfMul, Tables.gfMul]

@[simp] theorem gfMul_zero_right (a : Byte) : gfMul a 0x00 = 0x00 := by
  simp [gfMul, Tables.gfMul]

/-- The multiplier on nonzero operands: one entry of `EXP` at the sum of two entries of `LOG` (R70). -/
theorem gfMul_of_nonzero {a b : Byte} (ha : a ≠ 0x00) (hb : b ≠ 0x00) :
    gfMul a b = rom.expMod (mulSum (rom.LOG a) (rom.LOG b)) := by
  simp [gfMul, Tables.gfMul, show a ≠ 0#8 from ha, show b ≠ 0#8 from hb]

@[simp] theorem gfDiv_zero_right (a : Byte) : gfDiv a 0x00 = none := by
  simp [gfDiv, Tables.gfDiv]

theorem gfDiv_zero_left {b : Byte} (hb : b ≠ 0x00) : gfDiv 0x00 b = some 0x00 := by
  simp [gfDiv, Tables.gfDiv, show b ≠ 0#8 from hb]

/-- The divider on nonzero operands (R77). -/
theorem gfDiv_of_nonzero {a b : Byte} (ha : a ≠ 0x00) (hb : b ≠ 0x00) :
    gfDiv a b = some (rom.expMod (divSum (rom.LOG a) (rom.LOG b))) := by
  simp [gfDiv, Tables.gfDiv, show a ≠ 0#8 from ha, show b ≠ 0#8 from hb]

@[simp] theorem peval_nil (x c0 : Byte) : peval x c0 [] = c0 := rfl
@[simp] theorem peval_cons (x c0 c1 : Byte) (cs : List Byte) :
    peval x c0 (c1 :: cs) = gfAdd (gfMul (peval x c1 cs) x) c0 := rfl

/-- One pass of the interpolator's loop that raises nothing adds its term. -/
theorem lagrangeLoop_of_some {pts rest : List Point} {j : Nat} {p : Point} {acc term : Byte}
    (h : lagrangeTerm p (pts.eraseIdx j) = some term) :
    lagrangeLoop pts j (p :: rest) acc = lagrangeLoop pts (j + 1) rest (gfAdd acc term) := by
  simp [lagrangeLoop, h]

/-- A pass whose division has no value ends the loop. -/
theorem lagrangeLoop_of_none {pts rest : List Point} {j : Nat} {p : Point} {acc : Byte}
    (h : lagrangeTerm p (pts.eraseIdx j) = none) : lagrangeLoop pts j (p :: rest) acc = none := by
  simp [lagrangeLoop, h]

end Sys2Proof.Machine
end

