-- ==== Sys2Proof/Laws/State.lean ====
section
/-! SUPPORT. One lemma per field of State for each operation on it, all by rfl. -/

namespace Sys2Proof.Machine

variable (s : State)

@[simp] theorem State.reset_inputs : State.reset.inputs = [] := rfl
@[simp] theorem State.reset_responses : State.reset.responses = [] := rfl

@[simp] theorem State.setInputs_inputs (r : List PortEvent) : (s.setInputs r).inputs = r := rfl
@[simp] theorem State.setInputs_responses (r : List PortEvent) :
    (s.setInputs r).responses = s.responses := rfl

@[simp] theorem State.respond_inputs (r : Response) : (s.respond r).inputs = s.inputs := rfl
@[simp] theorem State.respond_responses (r : Response) :
    (s.respond r).responses = s.responses ++ [r] := rfl

@[simp] theorem State.raise_inputs (f : CommandFault) : (s.raise f).inputs = s.inputs := rfl
@[simp] theorem State.raise_responses (f : CommandFault) :
    (s.raise f).responses = s.responses ++ [.fault f] := rfl

@[simp] theorem State.resetEngine_inputs : s.resetEngine.inputs = s.inputs := rfl
@[simp] theorem State.resetEngine_responses : s.resetEngine.responses = s.responses := rfl

@[simp] theorem State.present_inputs (f : Frame) :
    (s.present f).inputs = s.inputs ++ [.frame f] := rfl
@[simp] theorem State.present_responses (f : Frame) : (s.present f).responses = s.responses := rfl

@[simp] theorem State.giveReset_inputs : s.giveReset.inputs = s.inputs ++ [.reset] := rfl
@[simp] theorem State.giveReset_responses : s.giveReset.responses = s.responses := rfl

@[simp] theorem State.withFetchWord_inputs (nbits w : Nat) :
    (s.withFetchWord nbits w).inputs = .frame (tableFrame nbits w) :: s.inputs := rfl
@[simp] theorem State.withFetchWord_responses (nbits w : Nat) :
    (s.withFetchWord nbits w).responses = s.responses := rfl

/-- Reset leaves nothing of the engine to see: it has no state of its own (R15, R137). -/
@[simp] theorem State.resetEngine_eq_self : s.resetEngine = s := rfl

/-- Setting the inputs twice keeps the last ones. -/
@[simp] theorem State.setInputs_setInputs (r r' : List PortEvent) :
    (s.setInputs r).setInputs r' = s.setInputs r' := rfl

/-- Setting the inputs a state has changes nothing. -/
@[simp] theorem State.setInputs_self : s.setInputs s.inputs = s := rfl

/-- Two states are equal when their ports are. -/
theorem State.ext_ports {s t : State} (hi : s.inputs = t.inputs) (hr : s.responses = t.responses) :
    s = t := by
  cases s; cases t; simp_all

end Sys2Proof.Machine
end

