-- ==== Sys2Proof/Laws/Ops.lean ====
section
/-! SUPPORT. One lemma per shared operation that says all it can do, cited instead of unfolding it. -/

namespace Sys2Proof.Machine

/-- Raising a fault is answering it (R11, R128). -/
theorem State.raise_eq_respond (s : State) (f : CommandFault) : s.raise f = s.respond (.fault f) := rfl

/-- Answering is appending one response and nothing else (R46). -/
theorem State.respond_eq (s : State) (r : Response) :
    s.respond r = { inputs := s.inputs, responses := s.responses ++ [r] } := rfl

/-! ### The units: what each meaning answers -/

theorem execGfadd_eq (a b : Byte) (s : State) :
    execGfadd a b s = .next (s.respond (.ok (gfAdd a b))) := rfl

theorem execGfmul_eq (a b : Byte) (s : State) :
    execGfmul a b s = .next (s.respond (.ok (gfMul a b))) := rfl

theorem execPeval_eq (x c0 : Byte) (cs : List Byte) (s : State) :
    execPeval x c0 cs s = .next (s.respond (.ok (peval x c0 cs))) := rfl

theorem execGfdiv_of_some {a b q : Byte} (h : gfDiv a b = some q) (s : State) :
    execGfdiv a b s = .next (s.respond (.ok q)) := by
  simp [execGfdiv, h]

theorem execGfdiv_of_none {a b : Byte} (h : gfDiv a b = none) (s : State) :
    execGfdiv a b s = .next (s.raise .divideByZero) := by
  simp [execGfdiv, h]

theorem execLinterp_of_some {p0 : Point} {ps : List Point} {v : Byte} (h : linterp (p0 :: ps) = some v)
    (s : State) : execLinterp p0 ps s = .next (s.respond (.ok v)) := by
  simp [execLinterp, h]

theorem execLinterp_of_none {p0 : Point} {ps : List Point} (h : linterp (p0 :: ps) = none)
    (s : State) : execLinterp p0 ps s = .next (s.raise .divideByZero) := by
  simp [execLinterp, h]

/-! ### The step -/

/-- An idle engine stays as it is (assumption log 4). -/
theorem step_idle {s : State} (h : s.inputs = []) : step s = .next s := by
  simp [step, h]

/-- A frame that spells no command, or has the wrong length, is answered with the fault decoding gives. -/
theorem runFrame_of_rejected {f : Frame} {e : CommandFault} (h : decode f = .rejected e) (s : State) :
    runFrame f s = .next (s.raise e) := by
  simp [runFrame, h]

/-- A frame that spells a command is executed. -/
theorem runFrame_of_command {f : Frame} {i : Instr} (h : decode f = .command i) (s : State) :
    runFrame f s = exec i s := by
  simp [runFrame, h]

/-- A step that finds a frame takes it and runs it. -/
theorem step_of_frame {s : State} {f : Frame} {rest : List PortEvent}
    (h : s.inputs = .frame f :: rest) : step s = runFrame f (s.setInputs rest) := by
  simp [step, h]

end Sys2Proof.Machine
end

