-- ==== Sys2Proof/Laws/HostSequences.lean ====
section
/-! SUPPORT. Small lemmas of the host sequences and of the terms claims use. -/

namespace Sys2Proof.Machine

@[simp] theorem framesOf_nil : framesOf [] = [] := rfl
@[simp] theorem framesOf_frame (f : Frame) (r : List PortEvent) :
    framesOf (.frame f :: r) = f :: framesOf r := rfl
@[simp] theorem framesOf_reset (r : List PortEvent) : framesOf (.reset :: r) = framesOf r := rfl

@[simp] theorem framesOf_append (l r : List PortEvent) :
    framesOf (l ++ r) = framesOf l ++ framesOf r := by
  induction l with
  | nil => rfl
  | cons e l ih => cases e <;> simp [ih]

@[simp] theorem sendAll_nil (s : State) : sendAll [] s = (s, some []) := rfl

/-- A frame sent and answered OK leaves its result in front of those of the frames after it. -/
theorem sendAll_of_ok {f : Frame} {fs : List Frame} {s t u : State} {y : Byte} {ys : List Byte}
    (h : send f s = (t, some (.ok y))) (hs : sendAll fs t = (u, some ys)) :
    sendAll (f :: fs) s = (u, some (y :: ys)) := by
  simp [sendAll, h, hs]

/-- A fault ends the sequence of frames (R116). -/
theorem sendAll_of_fault {f : Frame} {fs : List Frame} {s t : State} {e : CommandFault}
    (h : send f s = (t, some (.fault e))) : sendAll (f :: fs) s = (t, none) := by
  simp [sendAll, h]

/-- The draws of one byte position are `t - 1` (R107). -/
@[simp] theorem drawCoefficients_length (rng : Nat → Byte) (d t : Nat) :
    (drawCoefficients rng d t).length = t - 1 := by
  simp [drawCoefficients]

@[simp] theorem splitXs_length (n : Nat) : (splitXs n).length = n := by simp [splitXs]

/-- A round trip whose split returns shares has the result of combine on the chosen ones. -/
theorem roundTrip_of_ok {secret : List Byte} {n t : Int} {rng : Nat → Byte} {s : State}
    {shares : List Share} (h : (split secret n t rng s).result = .ok shares) (chosen : List Nat) :
    (roundTrip secret n t rng chosen s).result =
      (combine (chosen.filterMap fun j => shares[j]?) (split secret n t rng s).engine).result := by
  simp [roundTrip, h]

/-- A round trip whose split returns an error kind returns that kind. -/
theorem roundTrip_of_error {secret : List Byte} {n t : Int} {rng : Nat → Byte} {s : State}
    {e : HostError} (h : (split secret n t rng s).result = .error e) (chosen : List Nat) :
    (roundTrip secret n t rng chosen s).result = .error e := by
  simp [roundTrip, h]

/-- The self-check of an element whose inverse the engine answers is that of the three products and sums. -/
theorem fieldSelfCheck_of_ok {a v : Byte} {s t : State}
    (h : send (encode (.gfdiv 0x01 a)) s = (t, some (.ok v))) :
    (fieldSelfCheck a s).2 =
      ((sendAll [encode (.gfmul a v), encode (.gfadd a a), encode (.gfmul a 0x00)] t).2 ==
        some [0x01, 0x00, 0x00]) := by
  rw [fieldSelfCheck, h]

end Sys2Proof.Machine
end

