-- ==== Sys2Proof/Laws/PerInstr.lean ====
section
/-! SUPPORT. Statements about every command as syntax, one lemma per command. -/

namespace Sys2Proof

/-- Every frame begins with the opcode byte of its command, one of 0x01 to 0x05 (R47, R54). -/
def Laws.OpcodeFirst.Statement (i : Instr) : Prop :=
  byteAt (encode i) 0 = i.opcode ∧ 1 ≤ i.opcode.toNat ∧ i.opcode.toNat ≤ 5

namespace Laws.OpcodeFirst

theorem gfadd (a b : Byte) : Statement (.gfadd a b) := by
  simp [Statement, encode, byteAt, Instr.opcode, opGFADD]

theorem gfmul (a b : Byte) : Statement (.gfmul a b) := by
  simp [Statement, encode, byteAt, Instr.opcode, opGFMUL]

theorem gfdiv (a b : Byte) : Statement (.gfdiv a b) := by
  simp [Statement, encode, byteAt, Instr.opcode, opGFDIV]

theorem peval (x c0 : Byte) (cs : List Byte) : Statement (.peval x c0 cs) := by
  simp [Statement, encode, byteAt, Instr.opcode, opPEVAL]

theorem linterp (p0 : Point) (ps : List Point) : Statement (.linterp p0 ps) := by
  simp [Statement, encode, byteAt, Instr.opcode, opLINTERP]

end Laws.OpcodeFirst

/-- The count byte of a well-formed command holds its count whole (R49, R50, R51). -/
def Laws.CountByte.Statement (i : Instr) : Prop :=
  i.wellFormed = true → ∀ n, i.count = some n → (byteAt (encode i) 1).toNat = n

namespace Laws.CountByte

theorem gfadd (a b : Byte) : Statement (.gfadd a b) := by simp [Statement, Instr.count]

theorem gfmul (a b : Byte) : Statement (.gfmul a b) := by simp [Statement, Instr.count]

theorem gfdiv (a b : Byte) : Statement (.gfdiv a b) := by simp [Statement, Instr.count]

theorem peval (x c0 : Byte) (cs : List Byte) : Statement (.peval x c0 cs) := by
  simp [Statement, Instr.count, Instr.wellFormed, Config.MAXN, encode, byteAt]
  omega

theorem linterp (p0 : Point) (ps : List Point) : Statement (.linterp p0 ps) := by
  simp [Statement, Instr.count, Instr.wellFormed, Config.MAXM, encode, byteAt]
  omega

end Laws.CountByte

end Sys2Proof
end

