-- ==== Sys2Proof/Tests/Slice0.lean ====
section
/-! SUPPORT. Tests of the model on the spec's own examples, and a witness for the hypotheses of each
statement. Expected values are those of the named vectors of 95_test_vectors.md or of the named rule. -/

namespace Sys2Proof.Tests

open Sys2Proof.Machine

/-! ### WellFormed smoke: an ill-formed term for each check -/

theorem test_wellFormed_refuses_256_coefficients :
    (Instr.peval 0x01 0x00 (List.replicate 255 0x00)).wellFormed = false := by decide +kernel

theorem test_wellFormed_refuses_256_points :
    (Instr.linterp ⟨0x01, 0x00⟩ (List.replicate 255 ⟨0x02, 0x00⟩)).wellFormed = false := by
  decide +kernel

theorem test_wellFormed_accepts_255_coefficients :
    (Instr.peval 0x01 0x00 (List.replicate 254 0x00)).wellFormed = true := by decide +kernel

theorem test_wellFormed_accepts_255_points :
    (Instr.linterp ⟨0x01, 0x00⟩ (List.replicate 254 ⟨0x02, 0x00⟩)).wellFormed = true := by
  decide +kernel

/-! ### Decode: words written out from the formats of R48 to R50 -/

theorem test_decode_gfadd : decode [0x01, 0x57, 0x83] = .command (.gfadd 0x57 0x83) := by decide
theorem test_decode_gfmul : decode [0x02, 0x57, 0x83] = .command (.gfmul 0x57 0x83) := by decide
theorem test_decode_gfdiv : decode [0x03, 0x57, 0x83] = .command (.gfdiv 0x57 0x83) := by decide

/-- `PEVAL 02, [48, 1d, a7]` (R82). -/
theorem test_decode_peval :
    decode [0x04, 0x03, 0x02, 0x48, 0x1d, 0xa7] = .command (.peval 0x02 0x48 [0x1d, 0xa7]) := by
  decide

/-- `LINTERP [(01,f2), (03,62), (05,18)]` (R89). -/
theorem test_decode_linterp :
    decode [0x05, 0x03, 0x01, 0xf2, 0x03, 0x62, 0x05, 0x18] =
      .command (.linterp ⟨0x01, 0xf2⟩ [⟨0x03, 0x62⟩, ⟨0x05, 0x18⟩]) := by decide

/-- V-DEC-1, V-DEC-3, V-DEC-4 and V-DEC-6. -/
theorem test_decode_illegal :
    decode [] = .rejected .illegalCommand ∧ decode [0x00, 0x01, 0x02] = .rejected .illegalCommand ∧
    decode [0x06, 0x01, 0x02] = .rejected .illegalCommand ∧
    decode [0x09] = .rejected .illegalCommand := by decide

/-- V-DEC-9, V-DEC-11, V-DEC-12, V-DEC-14 and V-DEC-15. -/
theorem test_decode_bad_length_ab_pv :
    decode [0x01, 0x57, 0x83, 0x00] = .rejected .badLength ∧
    decode [0x03, 0x05, 0x00, 0x00] = .rejected .badLength ∧ decode [0x04] = .rejected .badLength ∧
    decode [0x04, 0x00, 0x02] = .rejected .badLength ∧
    decode [0x04, 0x01, 0x02] = .rejected .badLength := by decide

/-- V-DEC-20, V-DEC-21, V-DEC-22 and V-DEC-23. -/
theorem test_decode_bad_length_li :
    decode [0x05, 0x00] = .rejected .badLength ∧
    decode [0x05, 0x00, 0x01, 0x02] = .rejected .badLength ∧
    decode [0x05, 0x01, 0x07] = .rejected .badLength ∧
    decode [0x05, 0x02, 0x02, 0xd8, 0x04] = .rejected .badLength := by decide

/-- The table word of GFADD, and a PEVAL and a LINTERP word whose second byte gives the count; with a count
of 0 there is no command (R57, assumption log 8). -/
theorem test_decodeTableWord :
    decodeTableWord 8 0x01 = some (.gfadd 0x00 0x00) ∧
    decodeTableWord 16 0x0104 = some (.peval 0x00 0x00 []) ∧
    decodeTableWord 16 0x0105 = some (.linterp ⟨0x00, 0x00⟩ []) ∧
    decodeTableWord 8 0x04 = none := by decide

/-! ### One step of each command -/

/-- The response of one engine, just after reset, to one frame. -/
def answered (f : Frame) : Option Response :=
  match step (State.reset.present f) with
  | .next t => t.responses.head?
  | .fault _ => none
  | .refused _ => none

/-- V-ADD-2. -/
theorem test_gfadd : answered [0x01, 0x57, 0x83] = some (.ok 0xd4) := by decide
/-- V-ADD-6: no carry between bit positions. -/
theorem test_gfadd_no_carry : answered [0x01, 0x80, 0x01] = some (.ok 0x81) := by decide

/-- V-MUL-13: an 8-bit index adder would give a wrong product. -/
theorem test_gfmul_nine_bit_sum : answered [0x02, 0x80, 0x80] = some (.ok 0x9a) := by decide +kernel
/-- V-MUL-11: the greatest sum, 508. -/
theorem test_gfmul_greatest_sum : answered [0x02, 0xf6, 0xf6] = some (.ok 0x52) := by decide +kernel

/-- V-DIV-13: a negative difference of logarithms. -/
theorem test_gfdiv_negative_difference : answered [0x03, 0x03, 0x02] = some (.ok 0x8c) := by
  decide +kernel
/-- V-DIV-2: the divisor test comes before the zero dividend. -/
theorem test_gfdiv_zero_by_zero :
    answered [0x03, 0x00, 0x00] = some (.fault .divideByZero) := by decide

/-- V-PE-15: the order of the coefficients. -/
theorem test_peval_order :
    answered [0x04, 0x05, 0x06, 0x01, 0x02, 0x03, 0x04, 0x05] = some (.ok 0xed) := by decide +kernel
/-- V-PE-6: at x = 0 the constant term. -/
theorem test_peval_at_zero : answered [0x04, 0x03, 0x00, 0x48, 0x1d, 0xa7] = some (.ok 0x48) := by
  decide +kernel

/-- V-LI-3. -/
theorem test_linterp_line : answered [0x05, 0x02, 0x02, 0xd8, 0x04, 0xa2] = some (.ok 0x07) := by
  decide +kernel
/-- V-LI-8: points 0 and 2 share x. -/
theorem test_linterp_collision :
    answered [0x05, 0x03, 0x01, 0xf2, 0x02, 0xd8, 0x01, 0x00] = some (.fault .divideByZero) := by
  decide +kernel

/-- R125, R128: a fault is one response, and the frame after it still waits. -/
theorem test_fault_leaves_the_next_frame :
    step ⟨[.frame [0x09], .frame [0x02, 0x57, 0x83]], []⟩ =
      .next ⟨[.frame [0x02, 0x57, 0x83]], [.fault .illegalCommand]⟩ := rfl

/-- R137: a reset is taken and nothing is answered. -/
theorem test_reset_event :
    step ⟨[.reset, .frame [0x09]], [.ok 0x01]⟩ = .next ⟨[.frame [0x09]], [.ok 0x01]⟩ := rfl

/-- The word of GFADD presented by `withFetchWord` is the first command after reset. -/
theorem test_withFetchWord :
    step (State.reset.withFetchWord 8 0x01) = .next ⟨[], [.ok 0x00]⟩ := rfl

/-! ### Host sequences and written form -/

/-- P2, position 0, the first three shares. -/
theorem test_split_one_byte :
    (split [0x48] 3 3 (fun k => if k = 0 then 0x1d else 0xa7) State.reset).result =
      .ok [[0x01, 0xf2], [0x02, 0xd8], [0x03, 0x62]] := by decide +kernel

/-- P5, byte 0: two shares of a threshold of three are not rejected. -/
theorem test_combine_below_threshold :
    (combine [[0x02, 0xd8], [0x04, 0xa2]] State.reset).result = .ok [0x07] := by decide +kernel

/-- E7: the order of split's checks. -/
theorem test_split_errors :
    (split [0x48] 1 1 (fun _ => 0x00) State.reset).result = .error .invalidShareCount ∧
    (split [0x48] 3 5 (fun _ => 0x00) State.reset).result = .error .sharesLessThanThreshold ∧
    (split [] 5 3 (fun _ => 0x00) State.reset).result = .error .emptySecret := by decide

/-- E8: combine's checks. -/
theorem test_combine_errors :
    (combine [] State.reset).result = .error .shareCountMismatch ∧
    (combine [[0x01, 0x02]] State.reset).result = .error .shareCountMismatch ∧
    (combine [[0x01, 0x02], [0x02, 0x03, 0x04]] State.reset).result =
      .error .inconsistentShareLength ∧
    (combine [[0x01, 0x02], [0x01, 0x03]] State.reset).result = .error .duplicateShares := by decide

/-- R119 (e), P3: shares 5, 2 and 4 of P2, in that order, give back "HELLO". -/
theorem test_hello_combine :
    (combine [[0x05, 0x18, 0x40, 0xda, 0xeb, 0xad], [0x02, 0xd8, 0x5e, 0x9d, 0x53, 0xd2],
      [0x04, 0xa2, 0x22, 0x25, 0x6a, 0x6e]] State.reset).result = .ok helloSecret := by
  decide +kernel

/-- R119 (b), P6: two points of position 0 fit the secret bytes 0x48 and 0x00, and do not fit 0x48 with the
coefficients of 0x00. -/
theorem test_pointsFit :
    pointsFit [⟨0x01, 0xf2⟩, ⟨0x02, 0xd8⟩] 0x48 [0x1d, 0xa7] State.reset = true ∧
    pointsFit [⟨0x01, 0xf2⟩, ⟨0x02, 0xd8⟩] 0x00 [0x71, 0x83] State.reset = true ∧
    pointsFit [⟨0x01, 0xf2⟩, ⟨0x02, 0xd8⟩] 0x48 [0x71, 0x83] State.reset = false := by decide +kernel

/-- R119 (f), P1: the self-check of 0x53. -/
theorem test_fieldSelfCheck : (fieldSelfCheck 0x53 State.reset).2 = true := by decide +kernel

/-- R60: a line with a comment, its count byte taken from the list. -/
theorem test_assemble :
    assemble "PEVAL 0x02, [0x48, 29, 0xa7] ; x".toList = some [0x04, 0x03, 0x02, 0x48, 0x1d, 0xa7] := by
  decide +kernel

/-- R61: GFPOW 0x02, 3 is PEVAL of three zeros and 0x01. -/
theorem test_assemble_gfpow :
    assemble "GFPOW 0x02, 3".toList = some [0x04, 0x04, 0x02, 0x00, 0x00, 0x00, 0x01] := by
  decide +kernel

/-- R60: what is written assembles to the frame of the command. -/
theorem test_write_then_assemble :
    assemble (writeCommand (.linterp ⟨0x02, 0xd8⟩ [⟨0x04, 0xa2⟩])) =
      some [0x05, 0x02, 0x02, 0xd8, 0x04, 0xa2] := by decide +kernel

/-- R60: a response as it is written. -/
theorem test_write_response :
    (Response.ok 0xd4).write = "-> OK 0xd4".toList ∧
    (Response.fault .divideByZero).write = "-> DivideByZero".toList := by decide +kernel

/-! ### Witnesses: a state and operands that meet the hypotheses of each statement -/

theorem witness_StepRunsTheDecodedCommand : ∃ (s : State) (f : Frame) (rest : List PortEvent) (i : Instr),
    s.inputs = .frame f :: rest ∧ decode f = .command i :=
  ⟨⟨[.frame [0x01, 0x57, 0x83]], []⟩, _, _, .gfadd 0x57 0x83, rfl, by decide⟩

/-- One for each clause: a frame, and an engine that has none next and takes a step. -/
theorem witness_OneResponsePerCommandFrame :
    (∃ (s : State) (f : Frame) (rest : List PortEvent), s.inputs = .frame f :: rest) ∧
    ∃ s t : State, (∀ f rest, s.inputs ≠ .frame f :: rest) ∧ step s = .next t :=
  ⟨⟨⟨[.frame []], []⟩, _, _, rfl⟩, ⟨[.reset], []⟩, ⟨[], []⟩, by simp, rfl⟩

theorem witness_ExecTouchesOnlyTheResponsePort : ∃ (i : Instr) (s t : State), exec i s = .next t :=
  ⟨.gfadd 0x57 0x83, State.reset, ⟨[], [.ok 0xd4]⟩, rfl⟩

theorem witness_ResponseIsAFunctionOfTheFrame : ∃ (s : State) (fs : List Frame),
    s.inputs = fs.map PortEvent.frame ∧ fs ≠ [] :=
  ⟨⟨[.frame [0x09], .frame [0x01, 0x57, 0x83]], []⟩, [[0x09], [0x01, 0x57, 0x83]], rfl, by decide⟩

theorem witness_ResetBetweenCommandsChangesNothing : ∃ (s : State) (rest : List PortEvent),
    s.inputs = .reset :: rest := ⟨⟨[.reset, .frame [0x09]], [.ok 0x01]⟩, _, rfl⟩

theorem witness_IdleEngineStaysAsItIs : ∃ s : State, s.inputs = [] := ⟨⟨[], [.ok 0x01]⟩, rfl⟩

theorem witness_RunOfFramesIsOverAfterAsManySteps : ∃ (s : State) (fs : List Frame) (j : Nat),
    s.inputs = fs.map PortEvent.frame ∧ j < fs.length :=
  ⟨⟨[.frame [0x09], .frame [0x01, 0x57, 0x83]], []⟩, [[0x09], [0x01, 0x57, 0x83]], 1, rfl, by decide⟩

theorem witness_EveryStepKeepsTheAnswers : ∃ (rs : List Response) (s t : State),
    AnswersKept rs s ∧ step s = .next t :=
  ⟨[.fault .illegalCommand], ⟨[.frame [0x09]], []⟩, ⟨[], [.fault .illegalCommand]⟩,
    by unfold AnswersKept; decide, rfl⟩

theorem witness_FaultsAreNotSticky :
    ∃ (s t : State) (f g : Frame) (e : CommandFault) (rest : List PortEvent),
      s.inputs = .frame f :: .frame g :: rest ∧ answer f = .fault e ∧ t.inputs = .frame f :: rest :=
  ⟨⟨[.frame [0x09], .frame [0x02, 0x57, 0x83]], []⟩, ⟨[.frame [0x09]], []⟩, _, _, .illegalCommand, _,
    rfl, by decide, rfl⟩

theorem witness_AddMulAndEvalRunsAreSafe : ∃ s : State, SafeSoFar s ∧ framesOf s.inputs ≠ [] ∧
    ∀ f ∈ framesOf s.inputs, (∃ a b, decode f = .command (.gfadd a b)) ∨
      (∃ a b, decode f = .command (.gfmul a b)) ∨
      (∃ x c0 cs, decode f = .command (.peval x c0 cs)) :=
  ⟨⟨[.frame [0x01, 0x57, 0x83]], []⟩, by unfold SafeSoFar; decide, by decide, by
    intro f hf
    simp at hf
    exact .inl ⟨0x57, 0x83, by rw [hf]; decide⟩⟩

/-- At the greatest count. -/
theorem witness_DecodeOfEncodeIsTheCommand : ∃ i : Instr, i.wellFormed = true :=
  ⟨.peval 0xff 0x01 (List.replicate 254 0xff), by decide +kernel⟩

theorem witness_EncodeOfDecodeIsTheFrame : ∃ (f : Frame) (i : Instr), decode f = .command i :=
  ⟨[0x05, 0x01, 0x07, 0x99], .linterp ⟨0x07, 0x99⟩ [], by decide⟩

theorem witness_IllegalCommandExactly : ∃ (f : Frame) (s : State) (others : List PortEvent),
    answer f = .fault .illegalCommand ∧ s.inputs = .frame f :: others :=
  ⟨[0x06, 0x01, 0x02], ⟨[.frame [0x06, 0x01, 0x02]], []⟩, [], by decide, rfl⟩

theorem witness_BadLengthExactly : ∃ f : Frame, answer f = .fault .badLength := ⟨[0x04, 0x00, 0x02], by decide⟩

theorem witness_DivideByZeroExactly : ∃ (i : Instr) (s : State) (e : CommandFault),
    exec i s = .next { inputs := s.inputs, responses := s.responses ++ [.fault e] } :=
  ⟨.gfdiv 0x57 0x00, State.reset, .divideByZero, rfl⟩

/-- Each clause, the longest frames included. -/
theorem witness_LegalFrameSizes :
    (∃ (f : Frame) (i : Instr), decode f = .command i) ∧
    (∃ (f : Frame) (x c0 : Byte) (cs : List Byte), decode f = .command (.peval x c0 cs)) ∧
    (∃ cs : List Byte, cs.length = 254) ∧ ∃ ps : List Point, ps.length = 254 :=
  ⟨⟨[0x01, 0x57, 0x83], .gfadd 0x57 0x83, by decide⟩, ⟨[0x04, 0x01, 0x99, 0x12], 0x99, 0x12, [], by decide⟩,
    ⟨List.replicate 254 0x01, List.length_replicate⟩,
    ⟨List.replicate 254 ⟨0x01, 0x02⟩, List.length_replicate⟩⟩

/-- The greatest exponent, and a nonzero operand. -/
theorem witness_PseudoCommandsMeanTheirNames : ∃ (a : Byte) (k : Nat), a ≠ 0x00 ∧ 1 ≤ k ∧ k ≤ 254 :=
  ⟨0xff, 254, by decide⟩

theorem witness_ResponseFrameIsStatusAndResult : ∃ (f : Frame) (st v : Byte),
    (answer f).bytes = [st, v] ∧ st ≠ 0x00 := ⟨[0x09], 0x02, 0x00, by decide⟩

theorem witness_ReductionPolynomialIsIrreducible : ∃ a : Byte, a ≠ 0x00 := ⟨0xff, by decide⟩

/-- 0x03 is in the list, and 1 to 50 are exponents below the order of 0x02. -/
theorem witness_GeneratorsAreTheListedOnes : (0x03 : Byte) ∈ generators ∧ ∃ k, 1 ≤ k ∧ k < 51 :=
  ⟨by decide, 50, by decide⟩

/-- The last index, and the entry with the greatest logarithm. -/
theorem witness_TablesAreThePowersOfTheGenerator : ∃ (i : Nat) (a : Byte), i ≤ 254 ∧ a ≠ 0x00 ∧
    rom.EXP (BitVec.ofNat 8 i) = a := ⟨254, 0xf6, by decide +kernel⟩

theorem witness_ConstructionLoopBuildsTheTables : ∃ (i : Nat) (a : Byte), i ≤ 254 ∧ a ≠ 0x00 :=
  ⟨254, 0xff, by decide⟩

theorem witness_LawsOfTheTables : ∃ (i j : Nat) (a : Byte), i ≤ 254 ∧ j ≤ 254 ∧ a ≠ 0x00 :=
  ⟨254, 254, 0xff, by decide⟩

theorem witness_UnspecifiedEntriesAreNeverRead : ∃ t : Tables,
    (∀ a : Byte, a ≠ 0x00 → t.LOG a = rom.LOG a) ∧ ∀ i : Byte, i ≠ 0xff → t.EXP i = rom.EXP i :=
  ⟨rom, fun _ _ => rfl, fun _ _ => rfl⟩

/-- Operands with the greatest and the least logarithm. -/
theorem witness_TableIndicesAreInBounds : ∃ a b : Byte, a ≠ 0x00 ∧ b ≠ 0x00 ∧
    mulSum (rom.LOG a) (rom.LOG a) = 508 ∧ divSum (rom.LOG b) (rom.LOG a) = 1 ∧
    divSum (rom.LOG a) (rom.LOG b) = 509 := ⟨0xf6, 0x01, by decide +kernel⟩

/-- Both sides of each clause: a larger, a smaller and an equal logarithm. -/
theorem witness_DividerIndexIsTheDifferenceOfLogs : ∃ a b : Byte, a ≠ 0x00 ∧ b ≠ 0x00 ∧
    (rom.LOG b).toNat < (rom.LOG a).toNat ∧ 255 ≤ divSum (rom.LOG a) (rom.LOG b) ∧
    divSum (rom.LOG b) (rom.LOG a) ≤ 254 ∧ divSum (rom.LOG a) (rom.LOG a) = 255 :=
  ⟨0x02, 0x03, by decide +kernel⟩

/-- 0x03 is a generator. -/
theorem witness_ProductAndQuotientDoNotDependOnTheGenerator : ∃ g : Byte, IsGenerator g := by
  have hpow : ∀ i : Fin 255, fpow 0x03 i = rom.EXP (BitVec.ofNat 8 i) := by decide +kernel
  have hlog : ∀ a : Byte, a ≠ 0x00 → (rom.LOG a).toNat < 255 ∧ rom.EXP (rom.LOG a) = a := by
    decide +kernel
  have hexp : ∀ i : Fin 255, (rom.LOG (rom.EXP (BitVec.ofNat 8 i))).toNat = i := by decide +kernel
  refine ⟨0x03, fun a ha => ⟨(rom.LOG a).toNat, ⟨(hlog a ha).1, ?_⟩, ?_⟩, ?_⟩
  · rw [hpow ⟨_, (hlog a ha).1⟩]
    simpa using (hlog a ha).2
  · rintro i ⟨hi, rfl⟩
    rw [hpow ⟨i, hi⟩]
    exact (hexp ⟨i, hi⟩).symm
  · rw [show fpow 0x03 255 = fmul (fpow 0x03 (254 : Fin 255)) 0x03 from rfl, hpow]
    decide +kernel

/-- A bit index at the top, and at the bottom of the byte. -/
theorem witness_AdderIsBitwiseAndItsLaws : ∃ i j : Nat, i < 8 ∧ j < 8 ∧ i = 0 ∧ j = 7 :=
  ⟨0, 7, by decide⟩

/-- A frame one byte short and one byte long. -/
theorem witness_GfaddAnswersTheSum : ∃ rest rest' : List Byte, rest.length ≠ 2 ∧ rest'.length ≠ 2 ∧
    rest.length = 1 ∧ rest'.length = 3 := ⟨[0x57], [0x57, 0x83, 0x00], by decide⟩

/-- A zero operand, two nonzero ones, and a frame one byte short. -/
theorem witness_GfmulAnswersTheProduct :
    (∃ a b : Byte, a = 0x00 ∨ b = 0x00) ∧ (∃ a b : Byte, a ≠ 0x00 ∧ b ≠ 0x00) ∧
    ∃ rest : List Byte, rest.length ≠ 2 :=
  ⟨⟨0x53, 0x00, by decide⟩, ⟨0xf6, 0xf6, by decide⟩, [0x57], by decide⟩

theorem witness_LawsOfMultiplication : (∃ a b : Byte, gfMul a b = 0x00) ∧
    ∃ a c : Byte, a ≠ 0x00 ∧ gfMul a c = 0x01 := ⟨⟨0x00, 0x53, by decide⟩, 0x53, 0xca, by decide +kernel⟩

/-- Two nonzero operands, a zero dividend, and a frame one byte long. -/
theorem witness_GfdivAnswersTheQuotient : (∃ a b : Byte, a ≠ 0x00 ∧ b ≠ 0x00) ∧
    (∃ b : Byte, b ≠ 0x00) ∧ ∃ rest : List Byte, rest.length ≠ 2 :=
  ⟨⟨0xf6, 0x01, by decide⟩, ⟨0xff, by decide⟩, [0x57, 0x83, 0x00], by decide⟩

theorem witness_DivisionByZeroHasNoValue : ∃ (p0 : Point) (ps : List Point) (j : Nat) (p : Point),
    (p0 :: ps)[j]? = some p ∧ lagrangeDen p.x ((p0 :: ps).eraseIdx j) = 0x00 :=
  ⟨⟨0x01, 0xf2⟩, [⟨0x02, 0xd8⟩, ⟨0x01, 0x00⟩], 2, ⟨0x01, 0x00⟩, by decide +kernel⟩

theorem witness_LawsOfDivision : ∃ b : Byte, b ≠ 0x00 := ⟨0xff, by decide⟩

/-- The longest PEVAL, and for the bad lengths a count of 0 and a count of 255 one coefficient short. -/
theorem witness_PevalAnswersThePolynomialValue :
    (∃ cs : List Byte, cs.length ≤ 254 ∧ cs.length = 254) ∧
    (∃ (n : Byte) (rest : List Byte), n = 0x00 ∨ rest.length ≠ n.toNat + 1) ∧
    ∃ rest : List Byte, rest.length ≠ (0xff : Byte).toNat + 1 ∧ rest.length = 255 :=
  ⟨⟨List.replicate 254 0x01, List.length_replicate.le, List.length_replicate⟩, ⟨0x00, [0x02], by decide⟩, List.replicate 255 0x01, by
    decide +kernel⟩

theorem witness_HornerRunsFromTheTopCoefficientDown : ∃ (c0 top : Byte) (cs front : List Byte),
    c0 :: cs = front ++ [top] := ⟨0x48, 0xa7, [0x1d, 0xa7], [0x48, 0x1d], rfl⟩

/-- Distinct x with one of them 0x00; equal x; the longest LINTERP; a count of 0 and half a point. -/
theorem witness_LinterpAnswersTheValueAtZero :
    (∃ (p0 : Point) (ps : List Point), DistinctX (p0 :: ps)) ∧
    (∃ (p0 : Point) (ps : List Point), ¬ DistinctX (p0 :: ps)) ∧
    (∃ ps : List Point, ps.length ≤ 254 ∧ ps.length = 254) ∧
    (∃ (m : Byte) (rest : List Byte), m = 0x00 ∨ rest.length ≠ 2 * m.toNat) ∧
    ∃ rest : List Byte, rest.length ≠ 2 * (0x01 : Byte).toNat :=
  ⟨⟨⟨0x00, 0x48⟩, [⟨0x01, 0xf2⟩], by unfold DistinctX; decide⟩,
    ⟨⟨0x00, 0x01⟩, [⟨0x00, 0x02⟩], by unfold DistinctX; decide⟩,
    ⟨List.replicate 254 ⟨0x01, 0x02⟩, List.length_replicate.le, List.length_replicate⟩,
    ⟨0x00, [], by decide⟩, [0x07], by decide⟩

theorem witness_BothReadingsOfTheFormulaAgree : ∃ others others' : List Point,
    others.Perm others' ∧ others ≠ others' :=
  ⟨[⟨0x01, 0x02⟩, ⟨0x03, 0x04⟩], [⟨0x03, 0x04⟩, ⟨0x01, 0x02⟩], by decide⟩

/-- A point with a twin, a point before it that has none, and points of distinct and of equal x. -/
theorem witness_InterpolatorFaultsExactlyOnEqualX :
    (∃ (pts : List Point) (j : Nat) (p : Point), pts[j]? = some p ∧
      lagrangeDen p.x (pts.eraseIdx j) = 0x00 ∧
      ∀ i q, i < j → pts[i]? = some q → lagrangeDen q.x (pts.eraseIdx i) ≠ 0x00) ∧
    ∃ (p0 : Point) (ps : List Point), ¬ DistinctX (p0 :: ps) := by
  refine ⟨⟨[⟨0x02, 0xd8⟩, ⟨0x01, 0xf2⟩, ⟨0x01, 0x00⟩], 1, ⟨0x01, 0xf2⟩, rfl, by decide +kernel, ?_⟩,
    ⟨0x01, 0xf2⟩, [⟨0x01, 0xf2⟩], by unfold DistinctX; decide⟩
  intro i q hi hq
  obtain rfl : i = 0 := by omega
  cases hq
  decide +kernel

theorem witness_InterpolatorCornerCases : ∃ (pts : List Point) (p : Point),
    DistinctX pts ∧ p ∈ pts ∧ p.x = 0x00 :=
  ⟨[⟨0x01, 0xf2⟩, ⟨0x00, 0x48⟩], ⟨0x00, 0x48⟩, by unfold DistinctX; decide, by decide, rfl⟩

theorem witness_InterpolationIgnoresTheOrderOfPoints : ∃ pts pts' : List Point,
    pts.Perm pts' ∧ pts ≠ pts' :=
  ⟨[⟨0x05, 0x18⟩, ⟨0x01, 0xf2⟩, ⟨0x03, 0x62⟩], [⟨0x01, 0xf2⟩, ⟨0x03, 0x62⟩, ⟨0x05, 0x18⟩], by decide⟩

/-- Both clauses, the second with exactly as many points as coefficients and all with values at them. -/
theorem witness_InterpolationRecoversTheConstantTerm :
    (∃ (p0 : Point) (ps : List Point) (d0 : Byte) (ds : List Byte), DistinctX (p0 :: ps) ∧
      ds.length = ps.length ∧ ∀ p ∈ p0 :: ps, peval p.x d0 ds = p.y) ∧
    ∃ cs xs : List Byte, xs.Nodup ∧ cs.length + 1 ≤ xs.length :=
  ⟨⟨⟨0x01, 0xf2⟩, [⟨0x03, 0x62⟩, ⟨0x05, 0x18⟩], 0x48, [0x1d, 0xa7], by unfold DistinctX; decide, rfl,
    by decide +kernel⟩, [0x1d, 0xa7], [0x00, 0x01, 0xff], by decide⟩

/-- Each clause at the edges of the ranges. -/
theorem witness_SplitValidatesInOrder :
    ((1 : Int) < 2 ∨ (255 : Int) < 1) ∧ ((256 : Int) < 2 ∨ (255 : Int) < 256) ∧
    ((2 : Int) ≤ 2 ∧ (2 : Int) ≤ 255 ∧ ((1 : Int) < 2 ∨ (255 : Int) < 1)) ∧
    ((2 : Int) ≤ 254 ∧ (254 : Int) ≤ 255 ∧ (2 : Int) ≤ 255 ∧ (254 : Int) < 255) ∧
    ((2 : Int) ≤ 2 ∧ (2 : Int) ≤ 255 ∧ ([] : List Byte) = []) ∧
    (State.reset.inputs = [] ∧ (2 : Int) ≤ 255 ∧ (255 : Int) ≤ 255 ∧ [(0x48 : Byte)] ≠ []) := by
  decide

theorem witness_SplitGivesThePolynomialValues : ∃ (secret : List Byte) (n t : Nat) (s : State),
    s.inputs = [] ∧ 2 ≤ t ∧ t ≤ n ∧ n ≤ 255 ∧ secret ≠ [] :=
  ⟨[0x48], 255, 255, State.reset, by decide⟩

/-- Each clause: lengths that differ, equal indices at the least length, and one share. -/
theorem witness_CombineValidatesInOrder :
    (∃ shares : List Share, ∃ a ∈ shares, ∃ b ∈ shares, a.length ≠ b.length) ∧
    (∃ (shares : List Share) (L : Nat), 2 ≤ L ∧ (∀ a ∈ shares, a.length = L) ∧
      ¬ (shares.map fun a => byteAt a 0).Nodup) ∧
    ∃ shares : List Share, shares.length < 2 ∧ shares.length = 1 :=
  ⟨⟨[[0x01, 0x02], [0x02]], by decide⟩, ⟨[[0x01, 0x02], [0x01, 0x03]], 2, by decide⟩,
    [[0x01, 0x02]], by decide⟩

theorem witness_CombineInterpolatesEachPosition : ∃ (shares : List Share) (L : Nat) (s : State),
    s.inputs = [] ∧ 1 ≤ L ∧ 2 ≤ shares.length ∧ shares.length ≤ 255 ∧
    (∀ a ∈ shares, a.length = L + 1) ∧ (shares.map fun a => byteAt a 0).Nodup :=
  ⟨[[0x02, 0xd8], [0x04, 0xa2]], 1, State.reset, by decide⟩

/-- Each clause: two shares of length 1, the 256 shares of all indices, and a share of index 0. -/
theorem witness_CombineRefusesMeaninglessShareSets :
    (∃ (shares : List Share) (L : Nat), 2 ≤ shares.length ∧ L < 2 ∧ ∀ a ∈ shares, a.length = L) ∧
    (∃ shares : List Share, shares.length = 256 ∧ (∀ a ∈ shares, a.length = 2) ∧
      (shares.map fun a => byteAt a 0).Nodup) ∧
    ∃ (shares : List Share) (share : Share) (L : Nat) (s : State), s.inputs = [] ∧ 2 ≤ L ∧
      2 ≤ shares.length ∧ shares.length ≤ 255 ∧ (∀ a ∈ shares, a.length = L) ∧
      (shares.map fun a => byteAt a 0).Nodup ∧ share ∈ shares ∧ byteAt share 0 = 0x00 :=
  ⟨⟨[[0x01], [0x02]], 1, by decide⟩,
    ⟨(List.range 256).map fun i => [BitVec.ofNat 8 i, 0x00], by decide +kernel⟩,
    [[0x00, 0x48], [0x01, 0xf2]], [0x00, 0x48], 2, State.reset, by decide⟩

theorem witness_HostSequencesNeverMeetAFault : ∃ s : State, s.inputs = [] := ⟨State.reset, rfl⟩

/-- One byte split in two with threshold two, combined in the other order. -/
theorem witness_SplitThenCombineReturnsTheSecret :
    ∃ (secret : List Byte) (n t : Int) (rng : Nat → Byte) (s s' : State) (shares chosen : List Share),
      s.inputs = [] ∧ s'.inputs = [] ∧ (split secret n t rng s).result = .ok shares ∧ chosen.Nodup ∧
      (∀ a ∈ chosen, a ∈ shares) ∧ t ≤ chosen.length :=
  ⟨[0x48], 2, 2, fun _ => 0x1d, State.reset, State.reset, [[0x01, 0x55], [0x02, 0x72]],
    [[0x02, 0x72], [0x01, 0x55]], rfl, rfl, by decide +kernel, by decide⟩

/-- The two points of P6, with one of its fits for each of two secrets. -/
theorem witness_FewerThanThresholdPointsFitEverySecret : ∃ (pts : List Point) (ds ds' : List Byte),
    DistinctX pts ∧ (∀ p ∈ pts, p.x ≠ 0x00) ∧ ds.length = pts.length ∧ ds'.length = pts.length ∧
    (∀ p ∈ pts, peval p.x 0x48 ds = p.y) ∧ ∀ p ∈ pts, peval p.x 0x00 ds' = p.y :=
  ⟨[⟨0x01, 0xf2⟩, ⟨0x02, 0xd8⟩], [0x1d, 0xa7], [0x71, 0x83], by unfold DistinctX; decide, by decide, rfl,
    rfl, by decide +kernel, by decide +kernel⟩

/-- Three shares out of order, and two shares, the last of the list among them. -/
theorem witness_HelloScenario : ∃ (s : State) (three two : List Nat), s.inputs = [] ∧
    (three.Nodup ∧ (∀ j ∈ three, j < 5) ∧ 3 ≤ three.length) ∧
    two.Nodup ∧ (∀ j ∈ two, j < 5) ∧ two.length = 2 :=
  ⟨State.reset, [4, 1, 3], [4, 0], by decide⟩

/-- Each clause, at the edges of its ranges. -/
theorem witness_TestablePropertiesOfTheSequences :
    (∃ (secret : List Byte) (n t : Nat) (chosen : List Nat) (s : State), s.inputs = [] ∧ secret ≠ [] ∧
      2 ≤ t ∧ t ≤ n ∧ n ≤ 255 ∧ chosen.Nodup ∧ (∀ j ∈ chosen, j < n) ∧ chosen.length = t) ∧
    (∃ (pts : List Point) (secret secret' : Byte) (s : State), s.inputs = [] ∧ pts.length ≤ 254 ∧
      DistinctX pts ∧ (∀ p ∈ pts, p.x ≠ 0x00) ∧ secret ≠ secret') ∧
    (∃ (share long : Share) (p q : List Byte), 2 ≤ share.length ∧ share.length < long.length ∧
      1 ≤ p.length ∧ p.length = q.length) ∧
    ∃ (a : Byte) (s : State), s.inputs = [] ∧ a ≠ 0x00 :=
  ⟨⟨[0x48], 255, 2, [254, 0], State.reset, by decide⟩,
    ⟨[⟨0x01, 0xf2⟩, ⟨0x02, 0xd8⟩], 0x48, 0x00, State.reset, rfl, by decide, by unfold DistinctX; decide,
      by decide, by decide⟩,
    ⟨[0x01, 0x02], [0x01, 0x02, 0x03], [0x02], [0x03], by decide⟩, 0xff, State.reset, by decide⟩

end Sys2Proof.Tests
end

/-! ### The listed generators -/

namespace Sys2Proof.Machine

/-- The listed generators as a set: the list has no repeats (R18). It stands first because Lean checks a
definition, and all before it, before it begins the proofs after it: fewer of them wait at a time. -/
def generatorSet : Finset Byte := ⟨generators, by decide +kernel⟩

end Sys2Proof.Machine

/-! ### The frame of a command -/

namespace Sys2Proof.Machine

/-- Executing a command answers the response its own rule gives, and does nothing else (R41, R46). -/
theorem exec_eq_respond (i : Instr) (s : State) : exec i s = .next (s.respond (commandResponse i)) := by
  cases i with
  | gfadd a b => exact execGfadd_eq a b s
  | gfmul a b => exact execGfmul_eq a b s
  | gfdiv a b =>
    cases h : gfDiv a b with
    | none => rw [commandResponse, h]; exact execGfdiv_of_none h s
    | some q => rw [commandResponse, h]; exact execGfdiv_of_some h s
  | peval x c0 cs => exact execPeval_eq x c0 cs s
  | linterp p0 ps =>
    cases h : linterp (p0 :: ps) with
    | none => rw [commandResponse, h]; exact execLinterp_of_none h s
    | some v => rw [commandResponse, h]; exact execLinterp_of_some h s

/-- Settles O3: every command's meaning is one call of `respond`, which touches the responses only. -/
theorem execTouchesOnlyTheResponsePort : Obligations.ExecTouchesOnlyTheResponsePort := by
  unfold Obligations.ExecTouchesOnlyTheResponsePort
  intro i s t h
  rw [exec_eq_respond, Host.Outcome.next.injEq] at h
  subst h
  exact ⟨s.respond_inputs _, _, s.respond_responses _⟩

end Sys2Proof.Machine

/-! ### Bit vectors as polynomials over GF(2) -/

namespace Sys2Proof.Machine

open Polynomial

/-- The polynomial whose coefficient of x^i is bit i (R9, R16). -/
noncomputable def bitPoly {w : Nat} (v : BitVec w) : (ZMod 2)[X] :=
  ∑ i ∈ Finset.range w, if v.getLsbD i then X ^ i else 0

theorem coeff_bitPoly {w : Nat} (v : BitVec w) (n : Nat) :
    (bitPoly v).coeff n = if v.getLsbD n then 1 else 0 := by
  have hterm (i : Nat) : (if v.getLsbD i then X ^ i else 0 : (ZMod 2)[X]).coeff n =
      if n = i then (if v.getLsbD n then 1 else 0) else 0 := by
    split <;> simp_all [coeff_X_pow]
  simp only [bitPoly, finsetSum_coeff, hterm, Finset.sum_ite_eq, Finset.mem_range, ite_eq_left_iff]
  intro h
  simp [BitVec.getLsbD_of_ge v n (not_lt.mp h)]

@[simp] theorem bitPoly_zero {w : Nat} : bitPoly (0#w) = 0 := by simp [bitPoly]

@[simp] theorem bitPoly_one : bitPoly 1#8 = 1 := by simp [bitPoly, BitVec.getLsbD_one]

theorem bitPoly_xor {w : Nat} (v u : BitVec w) : bitPoly (v ^^^ u) = bitPoly v + bitPoly u := by
  ext n
  simp only [coeff_bitPoly, coeff_add, BitVec.getLsbD_xor]
  cases v.getLsbD n <;> cases u.getLsbD n <;> decide

/-- A left shift that loses no bit is a product with a power of x. -/
theorem bitPoly_shiftLeft {u w : Nat} (v : BitVec u) (i : Nat) (h : u + i ≤ w) :
    bitPoly (v.setWidth w <<< i) = bitPoly v * X ^ i := by
  ext n
  have hbit : (v.setWidth w <<< i).getLsbD n = (decide (i ≤ n) && v.getLsbD (n - i)) := by
    rw [BitVec.getLsbD_shiftLeft, BitVec.getLsbD_setWidth]
    rcases lt_or_ge n i with hi | hi
    · simp [hi]
    rcases lt_or_ge (n - i) u with hn | hn
    · simp [hi, show n < w by omega, show n - i < w by omega]
    · simp [BitVec.getLsbD_of_ge v _ hn]
  rw [coeff_mul_X_pow', coeff_bitPoly, coeff_bitPoly, hbit]
  split <;> simp_all

/-- Bits that are all clear can be cut off. -/
theorem bitPoly_setWidth {w : Nat} (v : BitVec w) (u : Nat)
    (h : ∀ n, u ≤ n → v.getLsbD n = false) : bitPoly (v.setWidth u) = bitPoly v := by
  ext n
  simp only [coeff_bitPoly, BitVec.getLsbD_setWidth]
  rcases lt_or_ge n u with hn | hn
  · simp [hn]
  · simp [h n hn]

theorem degree_bitPoly_lt {w : Nat} (v : BitVec w) : (bitPoly v).degree < w := by
  rw [degree_lt_iff_coeff_zero]
  intro n hn
  simp [coeff_bitPoly, BitVec.getLsbD_of_ge v n hn]

theorem bitPoly_injective {w : Nat} : Function.Injective (bitPoly (w := w)) := by
  intro v u h
  refine BitVec.eq_of_getLsbD_eq fun n _ => ?_
  have hn := congrArg (fun p => p.coeff n) h
  simp only [coeff_bitPoly] at hn
  cases hv : v.getLsbD n <;> cases hu : u.getLsbD n <;> simp_all

/-! ### The two loops of `fmul` (R16) -/

/-- The first loop is the product of polynomials. -/
theorem bitPoly_clmul (a b : Byte) : bitPoly (clmul a b) = bitPoly a * bitPoly b := by
  have passes (n : Nat) (hn : n ≤ 8) :
      bitPoly ((List.range n).foldl
        (fun r i => if b.getLsbD i then r ^^^ (a.setWidth 15 <<< i) else r) 0) =
      bitPoly a * ∑ i ∈ Finset.range n, if b.getLsbD i then X ^ i else 0 := by
    induction n with
    | zero => simp
    | succ n ih =>
      rw [List.range_succ, List.foldl_append, Finset.sum_range_succ, mul_add, ← ih (by omega)]
      simp only [List.foldl_cons, List.foldl_nil]
      split
      · rw [bitPoly_xor, bitPoly_shiftLeft a n (by omega)]
      · simp
  exact passes 8 le_rfl

theorem zero_clmul (b : Byte) : clmul 0x00 b = 0 :=
  bitPoly_injective (by simp [bitPoly_clmul])

theorem clmul_zero (a : Byte) : clmul a 0x00 = 0 :=
  bitPoly_injective (by simp [bitPoly_clmul])

/-- One pass of the second loop, at bit `i`. -/
def reducePass (r : BitVec 15) (i : Nat) : BitVec 15 :=
  if r.getLsbD i then r ^^^ (Config.reductionPoly.setWidth 15 <<< (i - 8)) else r

/-- The last `k` passes of the second loop, at the bits `k + 7` down to 8. -/
def reducePasses : Nat → BitVec 15 → BitVec 15
  | 0, r => r
  | k + 1, r => reducePasses k (reducePass r (k + 8))

theorem reduce_eq_reducePasses (r : BitVec 15) : reduce r = reducePasses 7 r := rfl

/-- From its top bit up, the shifted reduction polynomial has that one bit only. -/
theorem reductionPoly_shiftLeft_getLsbD {k n : Nat} (hk : k < 7) (hn : k + 8 ≤ n) :
    (Config.reductionPoly.setWidth 15 <<< k).getLsbD n = decide (n = k + 8) := by
  rcases hn.eq_or_lt with rfl | hlt
  · simp [Config.reductionPoly]
    omega
  · simp [BitVec.getLsbD_of_ge Config.reductionPoly (n - k) (by omega)]
    omega

/-- A pass clears its bit and sets none above it. -/
theorem reducePass_clears {r : BitVec 15} {k : Nat} (hk : k < 7)
    (h : ∀ n, k + 9 ≤ n → r.getLsbD n = false) :
    ∀ n, k + 8 ≤ n → (reducePass r (k + 8)).getLsbD n = false := by
  intro n hn
  by_cases hbit : r.getLsbD (k + 8) = true
  · rw [reducePass, if_pos hbit, BitVec.getLsbD_xor, Nat.add_sub_cancel,
      reductionPoly_shiftLeft_getLsbD hk hn]
    rcases hn.eq_or_lt with rfl | hlt
    · simp [hbit]
    · simp [h n hlt, show n ≠ k + 8 by omega]
  · rw [reducePass, if_neg hbit]
    rcases hn.eq_or_lt with rfl | hlt
    · simpa using hbit
    · exact h n hlt

theorem reducePasses_clears (k : Nat) (hk : k ≤ 7) (r : BitVec 15)
    (h : ∀ n, k + 8 ≤ n → r.getLsbD n = false) :
    ∀ n, 8 ≤ n → (reducePasses k r).getLsbD n = false := by
  induction k generalizing r with
  | zero => simpa [reducePasses] using h
  | succ k ih =>
    exact ih (by omega) _ (reducePass_clears (by omega) fun n hn => h n (by omega))

theorem reduce_clears (r : BitVec 15) : ∀ n, 8 ≤ n → (reduce r).getLsbD n = false :=
  reducePasses_clears 7 le_rfl r fun n hn => BitVec.getLsbD_of_ge r n hn

/-! ### The field as the residues of polynomials modulo 0x11b -/

/-- The reduction polynomial (R6, R16). -/
noncomputable def modulus : (ZMod 2)[X] := X ^ 8 + X ^ 4 + X ^ 3 + X + 1

theorem bitPoly_reductionPoly : bitPoly Config.reductionPoly = modulus := by
  simp [bitPoly, Finset.sum_range_succ, Config.reductionPoly, modulus]
  ring

theorem degree_modulus : modulus.degree = 8 := by unfold modulus; compute_degree!

theorem modulus_monic : modulus.Monic := by unfold modulus; monicity!

/-- The residue class of a byte's polynomial modulo the reduction polynomial. -/
noncomputable def residue (v : Byte) : AdjoinRoot modulus := AdjoinRoot.mk modulus (bitPoly v)

theorem bitPoly_modByMonic (v : Byte) : bitPoly v %ₘ modulus = bitPoly v :=
  (modByMonic_eq_self_iff modulus_monic).2 (degree_modulus ▸ degree_bitPoly_lt v)

theorem residue_injective : Function.Injective residue := by
  intro v u h
  have := congrArg (AdjoinRoot.modByMonicHom modulus_monic) h
  simp only [residue, AdjoinRoot.modByMonicHom_mk, bitPoly_modByMonic] at this
  exact bitPoly_injective this

@[simp] theorem residue_zero : residue 0#8 = 0 := by simp [residue]

@[simp] theorem residue_one : residue 1#8 = 1 := by simp [residue]

theorem residue_xor (a b : Byte) : residue (a ^^^ b) = residue a + residue b := by
  simp [residue, bitPoly_xor]

/-- A pass subtracts a multiple of the reduction polynomial, or nothing. -/
theorem mk_reducePass (r : BitVec 15) {k : Nat} (hk : k < 7) :
    AdjoinRoot.mk modulus (bitPoly (reducePass r (k + 8))) = AdjoinRoot.mk modulus (bitPoly r) := by
  unfold reducePass
  split
  · rw [bitPoly_xor, bitPoly_shiftLeft _ _ (by omega), bitPoly_reductionPoly]
    simp
  · rfl

theorem mk_reducePasses (k : Nat) (hk : k ≤ 7) (r : BitVec 15) :
    AdjoinRoot.mk modulus (bitPoly (reducePasses k r)) = AdjoinRoot.mk modulus (bitPoly r) := by
  induction k generalizing r with
  | zero => rfl
  | succ k ih => rw [reducePasses, ih (by omega), mk_reducePass r (by omega)]

theorem residue_fmul (a b : Byte) : residue (fmul a b) = residue a * residue b := by
  rw [residue, fmul, bitPoly_setWidth _ 8 (reduce_clears _), reduce_eq_reducePasses,
    mk_reducePasses 7 le_rfl, bitPoly_clmul, map_mul, residue, residue]

theorem bitPoly_fmul (a b : Byte) : bitPoly (fmul a b) = (bitPoly a * bitPoly b) %ₘ modulus := by
  have h := congrArg (AdjoinRoot.modByMonicHom modulus_monic) (residue_fmul a b)
  simpa only [residue, ← map_mul, AdjoinRoot.modByMonicHom_mk, bitPoly_modByMonic] using h

/-- Settles O22: the first loop multiplies, and the second keeps the residue and leaves a degree below 8. -/
theorem fmulIsThePolynomialProductModulo : Obligations.FmulIsThePolynomialProductModulo := by
  unfold Obligations.FmulIsThePolynomialProductModulo
  exact fun a b => ⟨bitPoly_xor a b, bitPoly_fmul a b⟩

/-! ### Laws of the field, by the residues -/

theorem fmul_comm (a b : Byte) : fmul a b = fmul b a :=
  residue_injective (by simp only [residue_fmul, mul_comm])

theorem fmul_assoc (a b c : Byte) : fmul (fmul a b) c = fmul a (fmul b c) :=
  residue_injective (by simp only [residue_fmul, mul_assoc])

theorem fmul_xor (a b c : Byte) : fmul a (b ^^^ c) = fmul a b ^^^ fmul a c :=
  residue_injective (by simp only [residue_fmul, residue_xor, mul_add])

@[simp] theorem fmul_zero (a : Byte) : fmul a 0#8 = 0#8 :=
  residue_injective (by simp only [residue_fmul, residue_zero, mul_zero])

@[simp] theorem zero_fmul (a : Byte) : fmul 0#8 a = 0#8 := by rw [fmul_comm, fmul_zero]

@[simp] theorem fmul_one (a : Byte) : fmul a 1#8 = a :=
  residue_injective (by simp only [residue_fmul, residue_one, mul_one])

@[simp] theorem one_fmul (a : Byte) : fmul 1#8 a = a := by rw [fmul_comm, fmul_one]

theorem residue_fpow (g : Byte) (k : Nat) : residue (fpow g k) = residue g ^ k := by
  induction k with
  | zero => simp [fpow]
  | succ k ih => rw [fpow, residue_fmul, ih, pow_succ]

theorem fpow_add (g : Byte) (i j : Nat) : fpow g (i + j) = fmul (fpow g i) (fpow g j) :=
  residue_injective (by simp only [residue_fmul, residue_fpow, pow_add])

theorem fpow_mul (g : Byte) (i j : Nat) : fpow g (i * j) = fpow (fpow g i) j :=
  residue_injective (by simp only [residue_fpow, pow_mul])

/-- The powers of an element whose n-th power is 0x01 repeat with period n. -/
theorem fpow_mod {g : Byte} {n : Nat} (h : fpow g n = 0x01) (i : Nat) : fpow g (i % n) = fpow g i := by
  have hn : residue g ^ n = 1 := by simp [← residue_fpow, h]
  exact residue_injective (by rw [residue_fpow, residue_fpow, ← pow_eq_pow_mod i hn])

end Sys2Proof.Machine

namespace Sys2Proof.Machine

/-! ### The tables -/

theorem length_expGrid : expGrid.length = 256 := rom.exp.size_toArray

theorem length_take_expGrid : (expGrid.take 255).length = 255 := by
  rw [List.length_take, length_expGrid]
  rfl

theorem getElem_take_expGrid {i : Nat} (hi : i < (expGrid.take 255).length) :
    (expGrid.take 255)[i] = rom.EXP (BitVec.ofNat 8 i) := by
  rw [length_take_expGrid] at hi
  simp [Tables.EXP, rom, Vector.get_eq_getElem, Nat.mod_eq_of_lt (show i < 256 by omega)]

/-- Each entry of the `EXP` grid is the one before it times `GEN` (R20). -/
theorem expGrid_isChain : (expGrid.take 255).IsChain fun v w => w = fmul v Config.GEN := by
  decide +kernel

theorem EXP_succ {i : Nat} (hi : i < 254) :
    rom.EXP (BitVec.ofNat 8 (i + 1)) = fmul (rom.EXP (BitVec.ofNat 8 i)) Config.GEN := by
  have h := List.isChain_iff_getElem.1 expGrid_isChain i (by rw [length_take_expGrid]; omega)
  simpa only [getElem_take_expGrid] using h

/-- The `LOG` grid holds each index of the `EXP` grid at that index's entry (R19). -/
theorem map_LOG_expGrid : (expGrid.take 255).map rom.LOG = (List.range 255).map (BitVec.ofNat 8) := by
  decide +kernel

theorem LOG_EXP {i : Nat} (hi : i ≤ 254) : rom.LOG (rom.EXP (BitVec.ofNat 8 i)) = BitVec.ofNat 8 i := by
  have h := congrArg (fun l => l[i]?) map_LOG_expGrid
  have hlt : i < (expGrid.take 255).length := by rw [length_take_expGrid]; omega
  simpa only [List.getElem?_map, List.getElem?_eq_getElem hlt, getElem_take_expGrid,
    List.getElem?_range (show i < 255 by omega), Option.map_some, Option.some.injEq] using h

theorem EXP_eq_fpow (i : Nat) (hi : i ≤ 254) : rom.EXP (BitVec.ofNat 8 i) = fpow Config.GEN i := by
  induction i with
  | zero => rfl
  | succ i ih => rw [EXP_succ (by omega), ih (by omega), fpow]

theorem LOG_fpow {i : Nat} (hi : i ≤ 254) : (rom.LOG (fpow Config.GEN i)).toNat = i := by
  rw [← EXP_eq_fpow i hi, LOG_EXP hi, BitVec.toNat_ofNat]
  omega

/-- The 255th power of `GEN` is 0x01 again (R18, R20). -/
theorem fpow_GEN_255 : fpow Config.GEN 255 = 0x01 := by
  rw [fpow, ← EXP_eq_fpow 254 le_rfl]
  decide +kernel

theorem fpow_GEN_eq_iff {i j : Nat} :
    fpow Config.GEN i = fpow Config.GEN j ↔ i ≡ j [MOD 255] := by
  have reduced (k : Nat) : fpow Config.GEN k = fpow Config.GEN (k % 255) :=
    (fpow_mod fpow_GEN_255 k).symm
  rw [reduced i, reduced j]
  constructor
  · intro h
    have := congrArg (fun a => (rom.LOG a).toNat) h
    simp only [LOG_fpow (show i % 255 ≤ 254 by omega), LOG_fpow (show j % 255 ≤ 254 by omega)] at this
    exact this
  · exact fun h => congrArg _ h

theorem fpow_GEN_ne_zero (i : Nat) : fpow Config.GEN i ≠ 0x00 := by
  intro h
  have h0 : fpow Config.GEN (i + 1) = fpow Config.GEN i := by simp [fpow, h]
  have := fpow_GEN_eq_iff.1 h0
  unfold Nat.ModEq at this
  omega

theorem fpow_GEN_injOn : Set.InjOn (fpow Config.GEN) (Set.Iio 255) :=
  fun _ hi _ hj h => (fpow_GEN_eq_iff.1 h).eq_of_lt_of_lt hi hj

theorem toNat_mem_Ioo_of_ne_zero {a : Byte} (ha : a ≠ 0x00) : a.toNat ∈ Finset.Ioo 0 256 :=
  Finset.mem_Ioo.2 ⟨Nat.pos_of_ne_zero fun h => ha (BitVec.eq_of_toNat_eq h), a.isLt⟩

/-- The 255 powers of `GEN` are different and nonzero, so they are all the nonzero bytes (R18). -/
theorem exists_fpow_GEN_eq {a : Byte} (ha : a ≠ 0x00) : ∃ i ≤ 254, fpow Config.GEN i = a := by
  have hmaps : Set.MapsTo (fun i => (fpow Config.GEN i).toNat) (Finset.range 255) (Finset.Ioo 0 256) :=
    fun i _ => toNat_mem_Ioo_of_ne_zero (fpow_GEN_ne_zero i)
  have hinj : Set.InjOn (fun i => (fpow Config.GEN i).toNat) (Finset.range 255) := fun i hi j hj h =>
    fpow_GEN_injOn (Finset.mem_range.1 hi) (Finset.mem_range.1 hj) (BitVec.eq_of_toNat_eq h)
  obtain ⟨i, hi, h⟩ := Finset.surjOn_of_injOn_of_card_le _ hmaps hinj (by simp)
    (toNat_mem_Ioo_of_ne_zero ha)
  exact ⟨i, Finset.mem_range_succ_iff.1 hi, BitVec.eq_of_toNat_eq h⟩

theorem LOG_le {a : Byte} (ha : a ≠ 0x00) : (rom.LOG a).toNat ≤ 254 := by
  obtain ⟨i, hi, rfl⟩ := exists_fpow_GEN_eq ha
  rwa [LOG_fpow hi]

theorem fpow_LOG {a : Byte} (ha : a ≠ 0x00) : fpow Config.GEN (rom.LOG a).toNat = a := by
  obtain ⟨i, hi, rfl⟩ := exists_fpow_GEN_eq ha
  rw [LOG_fpow hi]

theorem EXP_LOG {a : Byte} (ha : a ≠ 0x00) : rom.EXP (rom.LOG a) = a := by
  have h := EXP_eq_fpow _ (LOG_le ha)
  rwa [fpow_LOG ha, BitVec.ofNat_toNat, BitVec.setWidth_eq] at h

theorem LOG_inj {a b : Byte} (ha : a ≠ 0x00) (hb : b ≠ 0x00)
    (h : (rom.LOG a).toNat = (rom.LOG b).toNat) : a = b := by
  rw [← fpow_LOG ha, h, fpow_LOG hb]

/-- Settles O25: the powers of `GEN` are the entries of `EXP` and all the nonzero bytes, and `LOG` reads their
exponents back. -/
theorem tablesAreThePowersOfTheGenerator : Obligations.TablesAreThePowersOfTheGenerator := by
  unfold Obligations.TablesAreThePowersOfTheGenerator
  refine ⟨EXP_eq_fpow, rfl, fun a ha => ⟨LOG_le ha, EXP_LOG ha, fun i hi h => ?_⟩, fun i hi => ?_⟩
  · rw [← h, EXP_eq_fpow i hi, LOG_fpow hi]
  · rw [EXP_eq_fpow i hi]
    exact ⟨fpow_GEN_ne_zero i, LOG_fpow hi⟩

theorem EXP_mod_eq_fpow (i : Nat) : rom.EXP (BitVec.ofNat 8 (i % 255)) = fpow Config.GEN i := by
  rw [EXP_eq_fpow _ (by omega), fpow_mod fpow_GEN_255]

/-- Settles O27: on powers of `GEN` the product adds exponents, whose period is 255. -/
theorem lawsOfTheTables : Obligations.LawsOfTheTables := by
  unfold Obligations.LawsOfTheTables
  refine ⟨fun a ha => EXP_LOG ha, fun i hi => ?_, ⟨rfl, rfl⟩, rfl, fun i j hi hj => ?_,
    fun a ha => LOG_le ha⟩
  · rw [EXP_eq_fpow i hi, LOG_fpow hi]
  · rw [EXP_mod_eq_fpow, EXP_eq_fpow i hi, EXP_eq_fpow j hj, fpow_add]

/-! ### The tables' two open entries -/

/-- The index of `expMod` is reduced modulo 255, so it is never 0xff (R71). -/
theorem expMod_congr {t u : Tables} (h : ∀ i : Byte, i ≠ 0xff → t.EXP i = u.EXP i) (s : Nat) :
    t.expMod s = u.expMod s := by
  refine h _ fun hff => ?_
  have : s % 255 % 256 = 255 := by simpa using congrArg BitVec.toNat hff
  omega

/-- Settles O28: both zero tests come before the reads of `LOG`, and the index of `EXP` stays below 255. -/
theorem unspecifiedEntriesAreNeverRead : Obligations.UnspecifiedEntriesAreNeverRead := by
  unfold Obligations.UnspecifiedEntriesAreNeverRead
  intro t hlog hexp a b
  have hmod := expMod_congr hexp
  unfold gfMul gfDiv Tables.gfMul Tables.gfDiv
  by_cases ha : a = 0x00
  · simp only [ha, true_or, if_true, and_self]
  by_cases hb : b = 0x00
  · simp only [hb, or_true, if_true, and_self]
  simp only [hlog a ha, hlog b hb, hmod, and_self]

/-! ### Irreducibility -/

theorem fmul_ne_zero {a b : Byte} (ha : a ≠ 0x00) (hb : b ≠ 0x00) : fmul a b ≠ 0x00 := by
  rw [← fpow_LOG ha, ← fpow_LOG hb, ← fpow_add]
  exact fpow_GEN_ne_zero _

theorem exists_fmul_eq_one {a : Byte} (ha : a ≠ 0x00) : ∃ b, fmul a b = 0x01 := by
  have := LOG_le ha
  refine ⟨fpow Config.GEN (255 - (rom.LOG a).toNat), ?_⟩
  calc fmul a (fpow Config.GEN (255 - (rom.LOG a).toNat))
      = fpow Config.GEN ((rom.LOG a).toNat + (255 - (rom.LOG a).toNat)) := by
        rw [fpow_add, fpow_LOG ha]
    _ = 0x01 := by rw [show (rom.LOG a).toNat + (255 - (rom.LOG a).toNat) = 255 by omega, fpow_GEN_255]

/-- Settles O23: a product 0x11b would be 0x00 in the field, which has no zero divisors. -/
theorem reductionPolynomialIsIrreducible : Obligations.ReductionPolynomialIsIrreducible := by
  unfold Obligations.ReductionPolynomialIsIrreducible
  refine ⟨fun a b h => ?_, fun a ha => exists_fmul_eq_one ha⟩
  have ha : a ≠ 0x00 := by
    rintro rfl
    rw [zero_clmul] at h
    exact absurd h (by decide)
  have hb : b ≠ 0x00 := by
    rintro rfl
    rw [clmul_zero] at h
    exact absurd h (by decide)
  have hzero : fmul a b = 0x00 := by rw [fmul, h]; decide
  exact fmul_ne_zero ha hb hzero

/-! ### Generators -/

/-- A power `GEN^k` is a generator exactly when k has no divisor in common with 255 (R18). -/
theorem isGenerator_fpow_iff (k : Nat) : IsGenerator (fpow Config.GEN k) ↔ Nat.Coprime 255 k := by
  constructor
  · rintro ⟨honce, -⟩
    obtain ⟨i, ⟨-, hi⟩, -⟩ := honce Config.GEN (by decide)
    have hone : k * i ≡ 1 [MOD 255] := fpow_GEN_eq_iff.1 (by rw [fpow_mul, hi]; decide)
    have hcop : Nat.Coprime (k * i) 255 := hone.gcd_eq.trans (by decide)
    exact (Nat.coprime_mul_iff_left.1 hcop).1.symm
  · intro hk
    have hexp (i j : Nat) : fpow (fpow Config.GEN k) i = fpow Config.GEN j ↔ k * i ≡ j [MOD 255] := by
      rw [← fpow_mul, fpow_GEN_eq_iff]
    refine ⟨fun a ha => ?_, (hexp 255 0).2 (Nat.modEq_zero_iff_dvd.2 (Nat.dvd_mul_left ..))⟩
    obtain ⟨m, -, hm⟩ := Nat.exists_mul_mod_eq_one_of_coprime hk.symm (by decide)
    have hi : k * (m * (rom.LOG a).toNat % 255) ≡ (rom.LOG a).toNat [MOD 255] := by
      calc k * (m * (rom.LOG a).toNat % 255)
          ≡ k * (m * (rom.LOG a).toNat) [MOD 255] := (Nat.mod_modEq _ _).mul_left k
        _ = k * m * (rom.LOG a).toNat := (mul_assoc ..).symm
        _ ≡ 1 * (rom.LOG a).toNat [MOD 255] := Nat.ModEq.mul_right _ (show k * m ≡ 1 [MOD 255] from hm)
        _ = (rom.LOG a).toNat := one_mul _
    rw [← fpow_LOG ha]
    refine ⟨_, ⟨Nat.mod_lt _ (by decide), (hexp _ _).2 hi⟩, fun j ⟨hj, hja⟩ => ?_⟩
    have hij := ((hexp _ _).1 hja).trans hi.symm
    exact (Nat.ModEq.cancel_left_of_coprime hk hij).eq_of_lt_of_lt hj (Nat.mod_lt _ (by decide))

/-- The exponents of the listed bytes are coprime to 255. -/
theorem coprime_LOG_of_mem_generators : ∀ g ∈ generators, Nat.Coprime 255 (rom.LOG g).toNat := by
  decide +kernel

theorem ne_zero_of_mem_generators : ∀ g ∈ generators, g ≠ 0x00 := by decide +kernel

/-- There are φ(255) = 128 exponents coprime to 255, and as many listed bytes. -/
theorem mem_generators_of_coprime_LOG {a : Byte} (ha : a ≠ 0x00)
    (h : Nat.Coprime 255 (rom.LOG a).toNat) : a ∈ generators := by
  have hmaps : Set.MapsTo (fun g => (rom.LOG g).toNat) generatorSet
      ((Finset.range 255).filter (Nat.Coprime 255)) := fun g hg =>
    Finset.mem_filter.2 ⟨Finset.mem_range_succ_iff.2 (LOG_le (ne_zero_of_mem_generators g hg)),
      coprime_LOG_of_mem_generators g hg⟩
  have hinj : Set.InjOn (fun g => (rom.LOG g).toNat) generatorSet := fun g hg g' hg' =>
    LOG_inj (ne_zero_of_mem_generators g hg) (ne_zero_of_mem_generators g' hg')
  have hcard : ((Finset.range 255).filter (Nat.Coprime 255)).card ≤ generatorSet.card := by
    decide +kernel
  obtain ⟨g, hg, hga⟩ := Finset.surjOn_of_injOn_of_card_le _ hmaps hinj hcard
    (Finset.mem_filter.2 ⟨Finset.mem_range_succ_iff.2 (LOG_le ha), h⟩)
  rwa [← LOG_inj (ne_zero_of_mem_generators g hg) ha hga]

theorem not_isGenerator_zero : ¬ IsGenerator 0x00 := by
  rintro ⟨-, h⟩
  rw [fpow] at h
  simp at h

theorem isGenerator_iff_mem_generators (g : Byte) : IsGenerator g ↔ g ∈ generators := by
  rcases eq_or_ne g 0x00 with rfl | hg
  · exact iff_of_false not_isGenerator_zero (by decide)
  · have hiff := isGenerator_fpow_iff (rom.LOG g).toNat
    rw [fpow_LOG hg] at hiff
    exact hiff.trans ⟨mem_generators_of_coprime_LOG hg, coprime_LOG_of_mem_generators g⟩

theorem fpow_two_eq_one_iff (k : Nat) : fpow 0x02 k = 0x01 ↔ 51 ∣ k := by
  have htwo : fpow Config.GEN 25 = 0x02 := by rw [← EXP_eq_fpow 25 (by omega)]; rfl
  rw [← htwo, ← fpow_mul]
  change _ = fpow Config.GEN 0 ↔ _
  rw [fpow_GEN_eq_iff, Nat.modEq_zero_iff_dvd]
  omega

/-- Settles O24: each nonzero byte is a power `GEN^k`, a generator exactly when k is coprime to 255. -/
theorem generatorsAreTheListedOnes : Obligations.GeneratorsAreTheListedOnes := by
  unfold Obligations.GeneratorsAreTheListedOnes
  have hGEN : IsGenerator Config.GEN := (isGenerator_iff_mem_generators _).2 (by decide)
  refine ⟨isGenerator_iff_mem_generators, rfl, generatorSet.nodup, hGEN, fun g hg => ?_,
    (fpow_two_eq_one_iff 51).2 dvd_rfl, fun k hk hlt h => ?_⟩
  · have hleast : ∀ g ∈ generators, Config.GEN.toNat ≤ g.toNat := by decide +kernel
    exact hleast g ((isGenerator_iff_mem_generators g).1 hg)
  · exact absurd (Nat.le_of_dvd hk ((fpow_two_eq_one_iff k).1 h)) (by omega)

/-! ### The construction loop (R20) -/

theorem vector_get_set (t : Vector Byte 256) (i j v : Byte) :
    (t.set i.toNat v i.isLt).get j.toFin = if j = i then v else t.get j.toFin := by
  simp [Vector.get_eq_getElem, Vector.getElem_set, BitVec.toNat_inj, eq_comm]

theorem buildLoop_succ (g : Byte) (k i : Nat) (t : Tables) :
    buildLoop g (k + 1) (BitVec.ofNat 8 i) (fpow g i) t =
      buildLoop g k (BitVec.ofNat 8 (i + 1)) (fpow g (i + 1))
        { exp := t.exp.set (BitVec.ofNat 8 i).toNat (fpow g i) (BitVec.isLt _)
          log := t.log.set (fpow g i).toNat (BitVec.ofNat 8 i) (BitVec.isLt _) } := by
  rw [buildLoop, BitVec.ofNat_add]; rfl

/-- Passes `i` to `i + k - 1` write the power `g^j` at each index `j` of theirs, and nothing else in `EXP`. -/
theorem EXP_buildLoop (g : Byte) (k i : Nat) (t : Tables) (hk : i + k ≤ 255) {j : Nat} (hj : j < 256) :
    (buildLoop g k (BitVec.ofNat 8 i) (fpow g i) t).EXP (BitVec.ofNat 8 j) =
      if i ≤ j ∧ j < i + k then fpow g j else t.EXP (BitVec.ofNat 8 j) := by
  induction k generalizing i t with
  | zero => simp [buildLoop]
  | succ k ih =>
    have hij : BitVec.ofNat 8 j = BitVec.ofNat 8 i ↔ j = i := by
      rw [← BitVec.toNat_inj, BitVec.toNat_ofNat, BitVec.toNat_ofNat]
      omega
    rw [buildLoop_succ, ih (i + 1) _ (by omega), Tables.EXP, vector_get_set, if_congr hij rfl rfl,
      ← Tables.EXP]
    grind

/-- While the powers of `g` differ, passes `i` to `i + k - 1` write `j` at each power `g^j` of theirs, and no
other power's entry in `LOG`. -/
theorem LOG_buildLoop {g : Byte} (hinj : Set.InjOn (fpow g) (Set.Iio 255))
    (k i : Nat) (t : Tables) (hk : i + k ≤ 255) {j : Nat} (hj : j < 255) :
    (buildLoop g k (BitVec.ofNat 8 i) (fpow g i) t).LOG (fpow g j) =
      if i ≤ j ∧ j < i + k then BitVec.ofNat 8 j else t.LOG (fpow g j) := by
  induction k generalizing i t with
  | zero => simp [buildLoop]
  | succ k ih =>
    have hij : fpow g j = fpow g i ↔ j = i := hinj.eq_iff hj (Set.mem_Iio.2 (by omega))
    rw [buildLoop_succ, ih (i + 1) _ (by omega), Tables.LOG, vector_get_set, if_congr hij rfl rfl,
      ← Tables.LOG]
    grind

theorem EXP_buildTables (g : Byte) {i : Nat} (hi : i ≤ 254) :
    (buildTables g).EXP (BitVec.ofNat 8 i) = fpow g i := by
  rw [buildTables]
  exact (EXP_buildLoop g 255 0 _ le_rfl (by omega)).trans (if_pos (by omega))

theorem LOG_buildTables {g : Byte} (hinj : Set.InjOn (fpow g) (Set.Iio 255))
    {i : Nat} (hi : i ≤ 254) : (buildTables g).LOG (fpow g i) = BitVec.ofNat 8 i := by
  rw [buildTables]
  exact (LOG_buildLoop hinj 255 0 _ le_rfl (by omega)).trans (if_pos (by omega))

/-- Multiplication by the polynomial x (R20). -/
theorem fmul_two : ∀ v : Byte, fmul v 2#8 = xtime v := by decide +kernel

theorem fmul_GEN (v : Byte) : fmul v Config.GEN = v ^^^ xtime v := by
  rw [show Config.GEN = 1#8 ^^^ 2#8 from rfl, fmul_xor, fmul_one, fmul_two]

/-- Settles O26: the loop writes each power of `GEN` once and its index at that power, as the grids do. -/
theorem constructionLoopBuildsTheTables : Obligations.ConstructionLoopBuildsTheTables := by
  unfold Obligations.ConstructionLoopBuildsTheTables
  refine ⟨fun i hi => ?_, fun a ha => ?_, fpow_GEN_255, fmul_GEN⟩
  · rw [EXP_buildTables _ hi, EXP_eq_fpow i hi]
  · have h := LOG_buildTables fpow_GEN_injOn (LOG_le ha)
    rwa [fpow_LOG ha, BitVec.ofNat_toNat, BitVec.setWidth_eq] at h

end Sys2Proof.Machine

/-! ### Every step keeps the answers -/

namespace Sys2Proof.Machine

/-- A frame is answered with what R41 gives it, be it a command or none, and nothing else happens. -/
theorem runFrame_eq_respond (f : Frame) (s : State) : runFrame f s = .next (s.respond (answer f)) := by
  cases h : decode f with
  | rejected e => rw [runFrame_of_rejected h, State.raise_eq_respond, answer, h]
  | command i => rw [runFrame_of_command h, exec_eq_respond, answer, h]

theorem step_of_frame_eq_respond {s : State} {f : Frame} {rest : List PortEvent}
    (h : s.inputs = .frame f :: rest) : step s = .next ((s.setInputs rest).respond (answer f)) := by
  rw [step_of_frame h, runFrame_eq_respond]

theorem step_of_reset {s : State} {rest : List PortEvent} (h : s.inputs = .reset :: rest) :
    step s = .next (s.setInputs rest) := by
  simp [step, h]

/-- A step moves the answer of the frame it takes from those to come to those sent, after all the others. -/
theorem allAnswers_eq_of_step {s t : State} (h : step s = .next t) : t.allAnswers = s.allAnswers := by
  match hs : s.inputs with
  | [] =>
    rw [step_idle hs] at h
    cases h
    rfl
  | .reset :: rest =>
    rw [step_of_reset hs] at h
    cases h
    simp [State.allAnswers, hs]
  | .frame f :: rest =>
    rw [step_of_frame_eq_respond hs] at h
    cases h
    simp [State.allAnswers, hs]

/-- Settles O9: a step changes neither the answers of the whole run nor their order. -/
theorem everyStepKeepsTheAnswers : Obligations.EveryStepKeepsTheAnswers := by
  unfold Obligations.EveryStepKeepsTheAnswers
  exact fun _ _ _ hkept hstep => (allAnswers_eq_of_step hstep).trans hkept

end Sys2Proof.Machine

/-! ### Runs of frames -/

namespace Sys2Proof.Machine

theorem run_succ_of_step {s t : State} (h : step s = .next t) (k : Nat) :
    Host.Core.run core (k + 1) s = Host.Core.run core k t := by
  simp only [Host.Core.run, show core.step s = .next t from h]

/-- As many steps as frames that stand first answer these in order and leave what stands behind them. -/
theorem run_of_frames {s : State} {fs : List Frame} {rest : List PortEvent}
    (h : s.inputs = fs.map PortEvent.frame ++ rest) :
    Host.Core.run core fs.length s =
      .next { inputs := rest, responses := s.responses ++ fs.map answer } := by
  induction fs generalizing s with
  | nil =>
    obtain ⟨inputs, responses⟩ := s
    cases h
    simp [Host.Core.run]
  | cons f fs ih =>
    rw [List.length_cons, run_succ_of_step (step_of_frame_eq_respond h), ih rfl]
    simp

/-- Settles O4: the function is `answer`. -/
theorem responseIsAFunctionOfTheFrame : Obligations.ResponseIsAFunctionOfTheFrame := by
  unfold Obligations.ResponseIsAFunctionOfTheFrame
  exact ⟨answer, fun s fs h => run_of_frames (by rw [h, List.append_nil])⟩

end Sys2Proof.Machine

/-! ### Several engines -/

namespace Sys2Proof.Machine

theorem getElem?_stepEngine_self (k : Nat) (engines : List State) :
    (stepEngine k engines)[k]? = engines[k]?.map State.advance :=
  List.getElem?_modify_eq ..

theorem getElem?_stepEngine_of_ne {j k : Nat} (h : j ≠ k) (engines : List State) :
    (stepEngine j engines)[k]? = engines[k]? :=
  List.getElem?_modify_ne _ _ h

/-- Settles O58, by induction on the schedule: each step of it is engine k's own or leaves engine k as it is. -/
theorem enginesDoNotInteract : Obligations.EnginesDoNotInteract := by
  unfold Obligations.EnginesDoNotInteract
  intro schedule engines k
  induction schedule generalizing engines with
  | nil => simp [runEngines]
  | cons j schedule ih =>
    have hrun : runEngines (j :: schedule) engines = runEngines schedule (stepEngine j engines) := rfl
    rw [hrun, ih]
    rcases eq_or_ne j k with rfl | hjk
    · rw [getElem?_stepEngine_self, List.count_cons_self, Option.map_map, Function.iterate_succ]
    · rw [getElem?_stepEngine_of_ne hjk, List.count_cons_of_ne hjk]

end Sys2Proof.Machine

/-! ### The indices of the multiplier and the divider -/

namespace Sys2Proof.Machine

/-- Settles O29: both logarithms are at most 254 (`LOG_le`), and the bounds follow. -/
theorem tableIndicesAreInBounds : Obligations.TableIndicesAreInBounds := by
  unfold Obligations.TableIndicesAreInBounds mulSum divSum
  intro a b ha hb
  have hLa := LOG_le ha
  have hLb := LOG_le hb
  omega

end Sys2Proof.Machine

/-! ### Decoding and encoding -/

namespace Sys2Proof

/-! #### The opcode (R54) -/

/-- Every byte is one of the five opcodes or spells no command (R54, R56). -/
theorem opcode_cases (op : Byte) :
    op = opGFADD ∨ op = opGFMUL ∨ op = opGFDIV ∨ op = opPEVAL ∨ op = opLINTERP ∨
      (op = 0x00 ∨ 0x06 ≤ op.toNat) := by
  unfold opGFADD opGFMUL opGFDIV opPEVAL opLINTERP
  bv_omega

@[simp] theorem decode_nil : decode [] = .rejected .illegalCommand := rfl

theorem decode_opGFADD_cons (rest : List Byte) :
    decode (opGFADD :: rest) = decodeAB .gfadd (opGFADD :: rest) := rfl

theorem decode_opGFMUL_cons (rest : List Byte) :
    decode (opGFMUL :: rest) = decodeAB .gfmul (opGFMUL :: rest) := rfl

theorem decode_opGFDIV_cons (rest : List Byte) :
    decode (opGFDIV :: rest) = decodeAB .gfdiv (opGFDIV :: rest) := rfl

theorem decode_opPEVAL_cons (rest : List Byte) :
    decode (opPEVAL :: rest) = decodePV (opPEVAL :: rest) := rfl

theorem decode_opLINTERP_cons (rest : List Byte) :
    decode (opLINTERP :: rest) = decodeLI (opLINTERP :: rest) := rfl

theorem decode_of_illegal_opcode {op : Byte} (h : op = 0x00 ∨ 0x06 ≤ op.toNat) (rest : List Byte) :
    decode (op :: rest) = .rejected .illegalCommand := by
  have hne {legal : Byte} (hlegal : 1 ≤ legal.toNat ∧ legal.toNat ≤ 5) : op ≠ legal := by bv_omega
  have hADD : op ≠ opGFADD := hne (by decide)
  have hMUL : op ≠ opGFMUL := hne (by decide)
  have hDIV : op ≠ opGFDIV := hne (by decide)
  have hPEVAL : op ≠ opPEVAL := hne (by decide)
  have hLINTERP : op ≠ opLINTERP := hne (by decide)
  simp [decode, byteAt, hADD, hMUL, hDIV, hPEVAL, hLINTERP]

/-! #### The points of a LINTERP frame (R50) -/

@[simp] theorem length_flatMap_bytes (ps : List Point) :
    (ps.flatMap Point.bytes).length = 2 * ps.length := by
  simp [List.length_flatMap, Point.bytes, mul_comm]

@[simp] theorem pairUp_flatMap_bytes (ps : List Point) : pairUp (ps.flatMap Point.bytes) = ps := by
  induction ps with
  | nil => rfl
  | cons p ps ih => simpa [Point.bytes, pairUp] using ih

/-- Pairing up an even number of bytes drops none of them. -/
theorem flatMap_bytes_pairUp {m : Nat} {bytes : List Byte} (h : bytes.length = 2 * m) :
    (pairUp bytes).flatMap Point.bytes = bytes := by
  induction m generalizing bytes with
  | zero => rw [List.eq_nil_of_length_eq_zero h]; rfl
  | succ m ih =>
    match bytes, h with
    | x :: y :: rest, h =>
      have hrest : rest.length = 2 * m := by simpa [Nat.mul_succ] using h
      simp [pairUp, Point.bytes, ih hrest]

/-! #### The three formats: what each accepts and what it rejects (R48 to R50, R57) -/

theorem decodeAB_eq_command_iff {mk : Byte → Byte → Instr} {op : Byte} {rest : List Byte} {i : Instr} :
    decodeAB mk (op :: rest) = .command i ↔ ∃ a b, rest = [a, b] ∧ mk a b = i := by
  match rest with
  | [] | [_] | _ :: _ :: _ :: _ => simp [decodeAB]
  | [a, b] => simp [decodeAB, byteAt]

theorem decodeAB_eq_rejected_iff {mk : Byte → Byte → Instr} {cmd : Frame} {e : CommandFault} :
    decodeAB mk cmd = .rejected e ↔ cmd.length ≠ 3 ∧ .badLength = e := by
  simp [decodeAB, ite_eq_iff]

theorem toNat_eq_zero_iff {n : Byte} : n.toNat = 0 ↔ n = 0#8 := BitVec.toNat_inj (y := 0#8)

theorem decodePV_eq_command_iff {op : Byte} {rest : List Byte} {i : Instr} :
    decodePV (op :: rest) = .command i ↔
      ∃ n x c0 cs, rest = n :: x :: c0 :: cs ∧ n.toNat = cs.length + 1 ∧ .peval x c0 cs = i := by
  constructor
  · intro h
    simp only [decodePV, ite_eq_iff, reduceCtorEq, and_false, false_or, Decoded.command.injEq] at h
    obtain ⟨-, hcount, rfl⟩ := h
    match rest with
    | [] | [_] | [_, _] => simp [byteAt] at hcount
    | n :: x :: c0 :: cs =>
      have hn : n.toNat = cs.length + 1 := by simp [byteAt] at hcount; omega
      exact ⟨n, x, c0, cs, rfl, hn, rfl⟩
  · rintro ⟨n, x, c0, cs, rfl, hn, rfl⟩
    simp [decodePV, byteAt, hn]

theorem decodePV_eq_rejected_iff {op : Byte} {rest : List Byte} {e : CommandFault} :
    decodePV (op :: rest) = .rejected e ↔ ((op :: rest).length < 2 ∨
      ∃ n cs, rest = n :: cs ∧ (n = 0 ∨ (op :: rest).length ≠ n.toNat + 3)) ∧ .badLength = e := by
  cases rest with
  | nil => simp [decodePV]
  | cons n cs => simp [decodePV, byteAt, ite_eq_iff, toNat_eq_zero_iff]

theorem decodeLI_eq_command_iff {op : Byte} {rest : List Byte} {i : Instr} :
    decodeLI (op :: rest) = .command i ↔
      ∃ m p0 ps, rest = m :: (p0 :: ps).flatMap Point.bytes ∧ m.toNat = ps.length + 1 ∧
        .linterp p0 ps = i := by
  constructor
  · intro h
    simp only [decodeLI, ite_eq_iff, reduceCtorEq, and_false, false_or, Decoded.command.injEq] at h
    obtain ⟨-, hcount, rfl⟩ := h
    match rest with
    | [] | [_] | [_, _] => simp [byteAt] at hcount
    | m :: x :: y :: rest =>
      have hlen : m.toNat ≠ 0 ∧ rest.length = 2 * (m.toNat - 1) := by simp [byteAt] at hcount; omega
      have hrest := flatMap_bytes_pairUp hlen.2
      have hpairs := length_flatMap_bytes (pairUp rest)
      rw [hrest] at hpairs
      exact ⟨m, ⟨x, y⟩, pairUp rest, by simp [Point.bytes, hrest], by omega, rfl⟩
  · rintro ⟨m, p0, ps, rfl, hm, rfl⟩
    simp [decodeLI, byteAt, hm, Point.bytes, mul_comm, add_mul]

theorem decodeLI_eq_rejected_iff {op : Byte} {rest : List Byte} {e : CommandFault} :
    decodeLI (op :: rest) = .rejected e ↔ ((op :: rest).length < 2 ∨
      ∃ m ps, rest = m :: ps ∧ (m = 0 ∨ (op :: rest).length ≠ 2 * m.toNat + 2)) ∧ .badLength = e := by
  cases rest with
  | nil => simp [decodeLI]
  | cons m ps => simp [decodeLI, byteAt, ite_eq_iff, toNat_eq_zero_iff]

/-! #### The round trips (R55, R58) -/

theorem wellFormed_peval_iff {x c0 : Byte} {cs : List Byte} :
    (Instr.peval x c0 cs).wellFormed = true ↔ cs.length + 1 ≤ 255 := decide_eq_true_iff

theorem wellFormed_linterp_iff {p0 : Point} {ps : List Point} :
    (Instr.linterp p0 ps).wellFormed = true ↔ ps.length + 1 ≤ 255 := decide_eq_true_iff

theorem decode_encode {i : Instr} (h : i.wellFormed = true) : decode (encode i) = .command i := by
  cases i with
  | gfadd a b => rfl
  | gfmul a b => rfl
  | gfdiv a b => rfl
  | peval x c0 cs =>
    exact decodePV_eq_command_iff.2 ⟨_, x, c0, cs, rfl, Laws.CountByte.peval x c0 cs h _ rfl, rfl⟩
  | linterp p0 ps =>
    exact decodeLI_eq_command_iff.2 ⟨_, p0, ps, rfl, Laws.CountByte.linterp p0 ps h _ rfl, rfl⟩

/-- Settles O13: the count byte of a well-formed command holds its count whole. -/
theorem decodeOfEncodeIsTheCommand : Obligations.DecodeOfEncodeIsTheCommand := by
  unfold Obligations.DecodeOfEncodeIsTheCommand
  exact fun _ h => decode_encode h

/-- A count that a byte holds is within 255, and the encoder writes it as that byte. -/
theorem count_byte_eq {n : Byte} {k : Nat} (h : n.toNat = k) : k ≤ 255 ∧ BitVec.ofNat 8 k = n := by
  subst h
  exact ⟨by omega, by simp⟩

theorem encode_eq_and_wellFormed_of_decode {f : Frame} {i : Instr} (h : decode f = .command i) :
    encode i = f ∧ i.wellFormed = true := by
  cases f with
  | nil => cases h
  | cons op rest =>
    rcases opcode_cases op with rfl | rfl | rfl | rfl | rfl | hop
    iterate 3
      · obtain ⟨a, b, rfl, rfl⟩ := decodeAB_eq_command_iff.1 h
        exact ⟨rfl, rfl⟩
    · obtain ⟨n, x, c0, cs, rfl, hn, rfl⟩ := decodePV_eq_command_iff.1 h
      obtain ⟨hle, hbyte⟩ := count_byte_eq hn
      exact ⟨by rw [encode, hbyte], wellFormed_peval_iff.2 hle⟩
    · obtain ⟨m, p0, ps, rfl, hm, rfl⟩ := decodeLI_eq_command_iff.1 h
      obtain ⟨hle, hbyte⟩ := count_byte_eq hm
      exact ⟨by rw [encode, hbyte], wellFormed_linterp_iff.2 hle⟩
    · rw [decode_of_illegal_opcode hop] at h
      cases h

/-- Settles O14: the bytes each format accepts are those the encoder writes for the command. -/
theorem encodeOfDecodeIsTheFrame : Obligations.EncodeOfDecodeIsTheFrame := by
  unfold Obligations.EncodeOfDecodeIsTheFrame
  exact fun _ _ h => encode_eq_and_wellFormed_of_decode h

/-- Settles O15: each frame is the encoding of its command. -/
theorem framesOfTheFormatsDecode : Obligations.FramesOfTheFormatsDecode := by
  unfold Obligations.FramesOfTheFormatsDecode
  exact ⟨decode_encode (i := .gfadd 0x57 0x83) rfl, decode_encode (i := .gfmul 0x57 0x13) rfl,
    decode_encode (i := .gfdiv 0x02 0x03) rfl, decode_encode (i := .peval 0x02 0x48 [0x1d, 0xa7]) rfl,
    decode_encode (i := .linterp ⟨0x02, 0xd8⟩ [⟨0x04, 0xa2⟩]) rfl⟩

/-! #### The length of a frame (R48 to R50, R63) -/

theorem length_encode_peval (x c0 : Byte) (cs : List Byte) :
    (encode (.peval x c0 cs)).length = cs.length + 4 := rfl

theorem length_encode_linterp (p0 : Point) (ps : List Point) :
    (encode (.linterp p0 ps)).length = 2 * ps.length + 4 := by
  rw [encode, List.length_cons, List.length_cons, length_flatMap_bytes, List.length_cons]
  omega

theorem length_encode_bounds {i : Instr} (h : i.wellFormed = true) :
    3 ≤ (encode i).length ∧ (encode i).length ≤ 512 := by
  cases i with
  | gfadd a b => simp [encode]
  | gfmul a b => simp [encode]
  | gfdiv a b => simp [encode]
  | peval x c0 cs =>
    have := wellFormed_peval_iff.1 h
    rw [length_encode_peval]
    omega
  | linterp p0 ps =>
    have := wellFormed_linterp_iff.1 h
    rw [length_encode_linterp]
    omega

/-- Settles O19: a legal frame is the encoding of a command whose count is at most 255. -/
theorem legalFrameSizes : Obligations.LegalFrameSizes := by
  unfold Obligations.LegalFrameSizes
  refine ⟨fun f i h => ?_, fun f x c0 cs h => ?_, fun a b => ⟨_, decode_encode rfl, rfl⟩,
    fun x c0 cs hlen => ⟨_, decode_encode (wellFormed_peval_iff.2 (by omega)), ?_⟩,
    fun p0 ps hlen => ⟨_, decode_encode (wellFormed_linterp_iff.2 (by omega)), ?_⟩⟩
  · obtain ⟨rfl, hwf⟩ := encode_eq_and_wellFormed_of_decode h
    exact length_encode_bounds hwf
  · obtain ⟨rfl, hwf⟩ := encode_eq_and_wellFormed_of_decode h
    have := wellFormed_peval_iff.1 hwf
    rw [length_encode_peval]
    omega
  · rw [length_encode_peval, hlen]
  · rw [length_encode_linterp, hlen]

/-! #### The frames decoding rejects (R56, R57) -/

theorem decode_eq_illegalCommand_iff (f : Frame) : decode f = .rejected .illegalCommand ↔
    f = [] ∨ ∃ op rest, f = op :: rest ∧ (op = 0x00 ∨ 0x06 ≤ op.toNat) := by
  cases f with
  | nil => simp
  | cons op rest =>
    rcases opcode_cases op with rfl | rfl | rfl | rfl | rfl | hop
    · rw [decode_opGFADD_cons, decodeAB_eq_rejected_iff]; simp [opGFADD]
    · rw [decode_opGFMUL_cons, decodeAB_eq_rejected_iff]; simp [opGFMUL]
    · rw [decode_opGFDIV_cons, decodeAB_eq_rejected_iff]; simp [opGFDIV]
    · rw [decode_opPEVAL_cons, decodePV_eq_rejected_iff]; simp [opPEVAL]
    · rw [decode_opLINTERP_cons, decodeLI_eq_rejected_iff]; simp [opLINTERP]
    · exact iff_of_true (decode_of_illegal_opcode hop rest) (.inr ⟨op, rest, rfl, hop⟩)

theorem decode_cons_eq_badLength_iff (op : Byte) (rest : List Byte) :
    decode (op :: rest) = .rejected .badLength ↔
      ((op = 0x01 ∨ op = 0x02 ∨ op = 0x03) ∧ (op :: rest).length ≠ 3) ∨
      (op = 0x04 ∧ ((op :: rest).length < 2 ∨
        ∃ n cs, rest = n :: cs ∧ (n = 0 ∨ (op :: rest).length ≠ n.toNat + 3))) ∨
      (op = 0x05 ∧ ((op :: rest).length < 2 ∨
        ∃ m ps, rest = m :: ps ∧ (m = 0 ∨ (op :: rest).length ≠ 2 * m.toNat + 2))) := by
  rcases opcode_cases op with rfl | rfl | rfl | rfl | rfl | hop
  · rw [decode_opGFADD_cons, decodeAB_eq_rejected_iff]; simp [opGFADD]
  · rw [decode_opGFMUL_cons, decodeAB_eq_rejected_iff]; simp [opGFMUL]
  · rw [decode_opGFDIV_cons, decodeAB_eq_rejected_iff]; simp [opGFDIV]
  · rw [decode_opPEVAL_cons, decodePV_eq_rejected_iff]; simp [opPEVAL]
  · rw [decode_opLINTERP_cons, decodeLI_eq_rejected_iff]; simp [opLINTERP]
  · rw [decode_of_illegal_opcode hop]
    refine iff_of_false (by simp) ?_
    rintro (⟨rfl | rfl | rfl, -⟩ | ⟨rfl, -⟩ | ⟨rfl, -⟩) <;> exact absurd hop (by decide)

end Sys2Proof

/-! ### Answers -/

namespace Sys2Proof.Machine

/-- A command that is executed raises no other fault (R121). -/
theorem commandResponse_eq_fault {i : Instr} {e : CommandFault} (h : commandResponse i = .fault e) :
    e = .divideByZero := by
  cases i with
  | gfadd a b => cases h
  | gfmul a b => cases h
  | gfdiv a b =>
    rw [commandResponse] at h
    cases hq : gfDiv a b <;> rw [hq] at h <;> cases h
    rfl
  | peval x c0 cs => cases h
  | linterp p0 ps =>
    rw [commandResponse] at h
    cases hq : linterp (p0 :: ps) <;> rw [hq] at h <;> cases h
    rfl

/-- The two faults of decoding are answered exactly where decoding gives them (R122, R123). -/
theorem answer_eq_fault_iff {f : Frame} {e : CommandFault} (he : e ≠ .divideByZero) :
    answer f = .fault e ↔ decode f = .rejected e := by
  cases h : decode f with
  | rejected d => simp [answer, h]
  | command i => simpa [answer, h] using fun hi => he (commandResponse_eq_fault hi)

/-- Settles O16: no command is answered `IllegalCommand`, and decoding gives it for the first byte alone. -/
theorem illegalCommandExactly : Obligations.IllegalCommandExactly := by
  unfold Obligations.IllegalCommandExactly
  intro f
  refine ⟨(answer_eq_fault_iff (by decide)).trans (decode_eq_illegalCommand_iff f), fun h => ?_⟩
  rw [h]
  exact ⟨rfl, fun s others hs => by rw [step_of_frame_eq_respond hs, h]; rfl⟩

/-- Settles O17: no command is answered `BadLength`, and each format gives it for its own lengths. -/
theorem badLengthExactly : Obligations.BadLengthExactly := by
  unfold Obligations.BadLengthExactly
  intro f
  refine ⟨(answer_eq_fault_iff (by decide)).trans ?_, fun h => by rw [h]; rfl⟩
  cases f with
  | nil => simp
  | cons op rest =>
    rw [decode_cons_eq_badLength_iff]
    exact ⟨fun h => ⟨op, rest, rfl, h⟩, by rintro ⟨_, _, ⟨⟩, h⟩; exact h⟩

/-- Settles O2: a frame's step appends its answer, and the other two steps append nothing. -/
theorem oneResponsePerCommandFrame : Obligations.OneResponsePerCommandFrame := by
  unfold Obligations.OneResponsePerCommandFrame
  refine ⟨fun s f rest h => ⟨answer f, step_of_frame_eq_respond h⟩, fun s t hframe h => ?_⟩
  match hs : s.inputs with
  | [] =>
    rw [step_idle hs] at h
    cases h
    rfl
  | .reset :: rest =>
    rw [step_of_reset hs] at h
    cases h
    rfl
  | .frame f :: rest => exact absurd hs (hframe f rest)

theorem Response.status_le_three (r : Response) : r.status.toNat ≤ 3 := by
  cases r with
  | ok v => exact Nat.zero_le 3
  | fault e => cases e <;> decide

theorem Response.result_of_status_ne_zero {r : Response} (h : r.status ≠ 0x00) : r.result = 0x00 := by
  cases r with
  | ok v => exact absurd rfl h
  | fault e => rfl

theorem Response.ofBytes_bytes (r : Response) : Response.ofBytes r.bytes = some r := by
  cases r with
  | ok v => rfl
  | fault e => cases e <;> rfl

/-- Settles O20: `ok` and each of the three faults have their own status byte. -/
theorem responseFrameIsStatusAndResult : Obligations.ResponseFrameIsStatusAndResult := by
  unfold Obligations.ResponseFrameIsStatusAndResult
  exact ⟨fun v => rfl, rfl, rfl, rfl,
    fun f => ⟨_, _, rfl, (answer f).status_le_three, (answer f).result_of_status_ne_zero⟩,
    Response.ofBytes_bytes⟩

end Sys2Proof.Machine

/-! ### Product and quotient as the field's -/

namespace Sys2Proof.Machine

theorem expMod_eq_fpow (i : Nat) : rom.expMod i = fpow Config.GEN i := EXP_mod_eq_fpow i

/-- The table-driven product is the field's: logarithms add (R70, R72). -/
theorem gfMul_eq_fmul (a b : Byte) : gfMul a b = fmul a b := by
  rcases eq_or_ne a 0x00 with rfl | ha
  · exact (gfMul_zero_left b).trans (zero_fmul b).symm
  rcases eq_or_ne b 0x00 with rfl | hb
  · exact (gfMul_zero_right a).trans (fmul_zero a).symm
  rw [gfMul_of_nonzero ha hb, expMod_eq_fpow, mulSum, fpow_add, fpow_LOG ha, fpow_LOG hb]

theorem gfMul_comm (a b : Byte) : gfMul a b = gfMul b a := by
  rw [gfMul_eq_fmul, gfMul_eq_fmul, fmul_comm]

theorem one_gfMul (a : Byte) : gfMul 0x01 a = a := (gfMul_eq_fmul _ a).trans (one_fmul a)

/-- By a nonzero divisor there is a quotient, and it times the divisor is the dividend (R77, R80). -/
theorem exists_gfDiv_eq_some (a : Byte) {b : Byte} (hb : b ≠ 0x00) :
    ∃ q, gfDiv a b = some q ∧ gfMul q b = a := by
  rcases eq_or_ne a 0x00 with rfl | ha
  · exact ⟨0x00, gfDiv_zero_left hb, gfMul_zero_left b⟩
  refine ⟨_, gfDiv_of_nonzero ha hb, ?_⟩
  have hsum : divSum (rom.LOG a) (rom.LOG b) + (rom.LOG b).toNat = (rom.LOG a).toNat + 255 := by
    have := LOG_le hb
    unfold divSum
    omega
  calc gfMul (rom.expMod (divSum (rom.LOG a) (rom.LOG b))) b
      = fpow Config.GEN (divSum (rom.LOG a) (rom.LOG b) + (rom.LOG b).toNat) := by
        rw [gfMul_eq_fmul, fpow_add, fpow_LOG hb, expMod_eq_fpow]
    _ = fmul a 0x01 := by rw [hsum, fpow_add, fpow_LOG ha, fpow_GEN_255]
    _ = a := fmul_one a

/-! ### The pseudo-commands (R61) -/

theorem gfAdd_self (a : Byte) : gfAdd a a = 0x00 := BitVec.xor_self

theorem gfAdd_gfAdd_cancel_right (a b : Byte) : gfAdd (gfAdd a b) b = a := by
  simp [gfAdd]

/-- The products a host forms with GFMUL give the powers one after another. -/
theorem foldl_gfMul_eq_gfPow (a : Byte) (n : Nat) :
    (List.range n).foldl (fun v _ => gfMul v a) a = gfPow a (n + 1) := by
  induction n with
  | zero => exact (one_gfMul a).symm
  | succ n ih =>
    rw [List.range_succ, List.foldl_append, ih]
    rfl

/-- The evaluator on the single term `x^(n+1)`. -/
theorem peval_replicate_zero_one (x : Byte) (n : Nat) :
    peval x 0x00 (List.replicate n 0x00 ++ [0x01]) = gfPow x (n + 1) := by
  induction n with
  | zero => exact gfAdd_zero_right _
  | succ n ih =>
    rw [List.replicate_succ, List.cons_append, peval_cons, ih, gfAdd_zero_right, ← gfPow]

/-- Settles O21: GFINV is a quotient of 0x01, and both expansions of GFPOW multiply by a once a power. -/
theorem pseudoCommandsMeanTheirNames : Obligations.PseudoCommandsMeanTheirNames := by
  unfold Obligations.PseudoCommandsMeanTheirNames
  refine ⟨fun a b => ?_, gfAdd_self, fun a ha => ?_, fun a k hk => ?_, fun a k hk hle => ?_⟩
  · exact congrArg Response.ok (gfAdd_gfAdd_cancel_right a b)
  · obtain ⟨v, hv, hmul⟩ := exists_gfDiv_eq_some 0x01 ha
    exact ⟨v, by rw [pseudoGfinv, commandResponse, hv]; rfl, by rw [gfMul_comm, hmul]⟩
  · rw [pseudoGfpowByMul, foldl_gfMul_eq_gfPow, Nat.sub_add_cancel hk]
  · refine ⟨_, if_pos ⟨hk, hle⟩, wellFormed_peval_iff.2 ?_, ?_⟩
    · rw [List.length_append, List.length_replicate, List.length_singleton]
      omega
    · rw [commandResponse, peval_replicate_zero_one, Nat.sub_add_cancel hk]

end Sys2Proof.Machine

/-! ### The adder -/

namespace Sys2Proof.Machine

theorem getLsbD_gfAdd (a b : Byte) (i : Nat) :
    (gfAdd a b).getLsbD i = (a.getLsbD i ^^ b.getLsbD i) := BitVec.getLsbD_xor

theorem gfAdd_comm (a b : Byte) : gfAdd a b = gfAdd b a := BitVec.xor_comm a b

theorem gfAdd_assoc (a b c : Byte) : gfAdd (gfAdd a b) c = gfAdd a (gfAdd b c) :=
  BitVec.xor_assoc a b c

/-- Settles O33: the laws are those of the exclusive OR, which is taken bit by bit. -/
theorem adderIsBitwiseAndItsLaws : Obligations.AdderIsBitwiseAndItsLaws := by
  unfold Obligations.AdderIsBitwiseAndItsLaws
  exact ⟨fun a b i _ => getLsbD_gfAdd a b i, gfAdd_comm, gfAdd_assoc, gfAdd_zero_right, gfAdd_self,
    gfAdd_gfAdd_cancel_right⟩

/-! ### Answers to commands with two operands -/

/-- The frame of a well-formed command gets that command's response (R41, R55). -/
theorem answer_encode {i : Instr} (h : i.wellFormed = true) : answer (encode i) = commandResponse i := by
  rw [answer, decode_encode h]

/-- A frame of format AB has two bytes after its opcode (R48, R57). -/
theorem answer_of_length_ne_two {op : Byte} (hop : op = 0x01 ∨ op = 0x02 ∨ op = 0x03)
    {rest : List Byte} (h : rest.length ≠ 2) : answer (op :: rest) = .fault .badLength := by
  rw [answer_eq_fault_iff (by decide), decode_cons_eq_badLength_iff]
  exact .inl ⟨hop, by simpa using h⟩

theorem answer_gfadd_frame (a b : Byte) : answer [0x01, a, b] = .ok (gfAdd a b) :=
  answer_encode (i := .gfadd a b) rfl

/-- Settles O34: a frame of GFADD is answered with the sum, and its corner cases are the adder's laws. -/
theorem gfaddAnswersTheSum : Obligations.GfaddAnswersTheSum := by
  unfold Obligations.GfaddAnswersTheSum
  refine ⟨fun a b s => exec_eq_respond (.gfadd a b) s,
    fun a b => ⟨rfl, decode_encode (i := .gfadd a b) rfl⟩,
    fun rest h => answer_of_length_ne_two (.inl rfl) h, fun a b => ⟨?_, ?_, ?_⟩, ?_⟩
  · rw [answer_gfadd_frame, gfAdd_self]
  · rw [answer_gfadd_frame, gfAdd_zero_right]
  · rw [answer_gfadd_frame, answer_gfadd_frame, gfAdd_comm]
  · rw [answer_gfadd_frame]
    decide

end Sys2Proof.Machine

/-! ### The laws of the product -/

namespace Sys2Proof.Machine

/-- Settles O31: on nonzero bytes both multiply powers of `GEN`, and with 0x00 both are 0x00. -/
theorem multiplierAgreesWithTheField : Obligations.MultiplierAgreesWithTheField := by
  unfold Obligations.MultiplierAgreesWithTheField
  exact gfMul_eq_fmul

theorem gfMul_assoc (a b c : Byte) : gfMul (gfMul a b) c = gfMul a (gfMul b c) := by
  simp only [gfMul_eq_fmul, fmul_assoc]

theorem gfMul_one (a : Byte) : gfMul a 0x01 = a := by rw [gfMul_comm, one_gfMul]

theorem gfMul_gfAdd (a b c : Byte) : gfMul a (gfAdd b c) = gfAdd (gfMul a b) (gfMul a c) := by
  simp only [gfMul_eq_fmul, gfAdd, fmul_xor]

theorem gfMul_ne_zero {a b : Byte} (ha : a ≠ 0x00) (hb : b ≠ 0x00) : gfMul a b ≠ 0x00 := by
  rw [gfMul_eq_fmul]
  exact fmul_ne_zero ha hb

theorem eq_zero_or_eq_zero_of_gfMul_eq_zero {a b : Byte} (h : gfMul a b = 0x00) :
    a = 0x00 ∨ b = 0x00 := by
  by_contra! ⟨ha, hb⟩
  exact gfMul_ne_zero ha hb h

theorem gfAdd_eq_zero_iff {a b : Byte} : gfAdd a b = 0x00 ↔ a = b := BitVec.xor_eq_zero_iff

/-- A nonzero factor cancels: times the sum of the other two it is 0x00, so that sum is. -/
theorem gfMul_left_cancel {a b c : Byte} (ha : a ≠ 0x00) (h : gfMul a b = gfMul a c) : b = c := by
  have hzero : gfMul a (gfAdd b c) = 0x00 := by rw [gfMul_gfAdd, h, gfAdd_self]
  exact gfAdd_eq_zero_iff.1 ((eq_zero_or_eq_zero_of_gfMul_eq_zero hzero).resolve_left ha)

/-- The quotient by a nonzero divisor is the one byte whose product with the divisor is the dividend. -/
theorem gfDiv_eq_some_iff {a b q : Byte} (hb : b ≠ 0x00) : gfDiv a b = some q ↔ gfMul q b = a := by
  obtain ⟨q', hq', hmul⟩ := exists_gfDiv_eq_some a hb
  rw [hq', Option.some.injEq]
  constructor
  · rintro rfl
    exact hmul
  · intro h
    exact gfMul_left_cancel hb (by rw [gfMul_comm b, gfMul_comm b, hmul, h])

/-- Settles O36: the laws of the field, and the inverse is the quotient of 0x01. -/
theorem lawsOfMultiplication : Obligations.LawsOfMultiplication := by
  unfold Obligations.LawsOfMultiplication
  refine ⟨gfMul_comm, gfMul_assoc, gfMul_one, gfMul_zero_right, gfMul_gfAdd,
    fun _ _ => eq_zero_or_eq_zero_of_gfMul_eq_zero, fun a ha => ?_⟩
  obtain ⟨b, hb, hmul⟩ := exists_gfDiv_eq_some 0x01 ha
  have hinv : gfMul a b = 0x01 := by rw [gfMul_comm, hmul]
  exact ⟨b, hb, hinv, fun c hc => gfMul_left_cancel ha (hc.trans hinv.symm)⟩

/-! ### Tables built from other generators (R75) -/

theorem fpow_ne_zero {g : Byte} (hg : g ≠ 0x00) (k : Nat) : fpow g k ≠ 0x00 := by
  induction k with
  | zero => exact (by decide : (0x01 : Byte) ≠ 0x00)
  | succ k ih => exact fmul_ne_zero ih hg

/-- Among the first 255 powers of a generator each nonzero byte is there once (R18). -/
theorem IsGenerator.injOn_fpow {g : Byte} (hg : IsGenerator g) :
    Set.InjOn (fpow g) (Set.Iio 255) := by
  have hg0 : g ≠ 0x00 := by
    rintro rfl
    exact not_isGenerator_zero hg
  exact fun i hi j hj h => (hg.1 _ (fpow_ne_zero hg0 j)).unique ⟨hi, h⟩ ⟨hj, rfl⟩

theorem IsGenerator.exists_fpow_eq {g a : Byte} (hg : IsGenerator g) (ha : a ≠ 0x00) :
    ∃ i ≤ 254, fpow g i = a := by
  obtain ⟨i, ⟨hi, hia⟩, -⟩ := hg.1 a ha
  exact ⟨i, Nat.le_of_lt_succ hi, hia⟩

/-- `LOG` built from a generator gives the exponent of each nonzero byte. -/
theorem LOG_buildTables_le_and_fpow_eq {g a : Byte} (hg : IsGenerator g) (ha : a ≠ 0x00) :
    ((buildTables g).LOG a).toNat ≤ 254 ∧ fpow g ((buildTables g).LOG a).toNat = a := by
  obtain ⟨i, hi, rfl⟩ := hg.exists_fpow_eq ha
  have hlog : ((buildTables g).LOG (fpow g i)).toNat = i := by
    rw [LOG_buildTables hg.injOn_fpow hi, BitVec.toNat_ofNat]
    omega
  rw [hlog]
  exact ⟨hi, rfl⟩

/-- The index of `EXP` is reduced modulo 255, so a base with period 255 is read at any exponent. -/
theorem expMod_buildTables {g : Byte} (hg : fpow g 255 = 0x01) (s : Nat) :
    (buildTables g).expMod s = fpow g s := by
  rw [Tables.expMod, EXP_buildTables g (by omega), fpow_mod hg]

theorem Tables.gfMul_of_nonzero (t : Tables) {a b : Byte} (ha : a ≠ 0x00) (hb : b ≠ 0x00) :
    t.gfMul a b = t.expMod (mulSum (t.LOG a) (t.LOG b)) := if_neg (not_or.2 ⟨ha, hb⟩)

/-- Products over tables built from a generator: logarithms to any base add. -/
theorem gfMul_buildTables {g : Byte} (hg : IsGenerator g) (a b : Byte) :
    (buildTables g).gfMul a b = fmul a b := by
  rcases eq_or_ne a 0x00 with rfl | ha
  · exact (if_pos (.inl rfl)).trans (zero_fmul b).symm
  rcases eq_or_ne b 0x00 with rfl | hb
  · exact (if_pos (.inr rfl)).trans (fmul_zero a).symm
  obtain ⟨-, hpa⟩ := LOG_buildTables_le_and_fpow_eq hg ha
  obtain ⟨-, hpb⟩ := LOG_buildTables_le_and_fpow_eq hg hb
  rw [Tables.gfMul_of_nonzero _ ha hb, expMod_buildTables hg.2, mulSum, fpow_add, hpa, hpb]

/-- The entry the divider reads for nonzero operands, times the divisor, is the dividend. -/
theorem fmul_expMod_divSum_buildTables {g a b : Byte} (hg : IsGenerator g) (ha : a ≠ 0x00)
    (hb : b ≠ 0x00) : fmul ((buildTables g).expMod
      (divSum ((buildTables g).LOG a) ((buildTables g).LOG b))) b = a := by
  obtain ⟨-, hpa⟩ := LOG_buildTables_le_and_fpow_eq hg ha
  obtain ⟨hlb, hpb⟩ := LOG_buildTables_le_and_fpow_eq hg hb
  generalize (buildTables g).LOG a = la at hpa ⊢
  generalize (buildTables g).LOG b = lb at hlb hpb ⊢
  have hsum : divSum la lb + lb.toNat = la.toNat + 255 := by
    unfold divSum
    omega
  calc fmul ((buildTables g).expMod (divSum la lb)) b
      = fpow g (divSum la lb + lb.toNat) := by rw [expMod_buildTables hg.2, fpow_add, hpb]
    _ = fmul a 0x01 := by rw [hsum, fpow_add, hpa, hg.2]
    _ = a := fmul_one a

/-- Quotients over tables built from a generator are the engine's, the divisor 0x00 included. -/
theorem gfDiv_buildTables {g : Byte} (hg : IsGenerator g) (a b : Byte) :
    (buildTables g).gfDiv a b = gfDiv a b := by
  rcases eq_or_ne b 0x00 with rfl | hb
  · exact (if_pos rfl).trans (gfDiv_zero_right a).symm
  rcases eq_or_ne a 0x00 with rfl | ha
  · rw [gfDiv_zero_left hb, Tables.gfDiv, if_neg hb, if_pos rfl]
  rw [Tables.gfDiv, if_neg hb, if_neg ha, eq_comm, gfDiv_eq_some_iff hb, gfMul_eq_fmul]
  exact fmul_expMod_divSum_buildTables hg ha hb

/-- The powers of 0x02 are those of `GEN` with an exponent divisible by 5, so `GEN` is none of them. -/
theorem fpow_two_ne_GEN (k : Nat) : fpow 0x02 k ≠ Config.GEN := by
  intro h
  have hone : fpow Config.GEN 51 = fpow Config.GEN 0 := by
    calc fpow Config.GEN 51 = fpow 0x02 (k * 51) := by rw [fpow_mul, h]
      _ = 0x01 := (fpow_two_eq_one_iff _).2 (Nat.dvd_mul_left ..)
  exact absurd (fpow_GEN_eq_iff.1 hone) (by decide)

/-- Settles O32: the logarithms to any generator add; over the tables of 0x02 a product of nonzero bytes is a
power of 0x02, which 0x03 times 0x01 is not. -/
theorem productAndQuotientDoNotDependOnTheGenerator :
    Obligations.ProductAndQuotientDoNotDependOnTheGenerator := by
  unfold Obligations.ProductAndQuotientDoNotDependOnTheGenerator
  refine ⟨fun g hg a b => ⟨?_, gfDiv_buildTables hg a b⟩, Config.GEN, 0x01, ?_⟩
  · rw [gfMul_buildTables hg, gfMul_eq_fmul]
  · have hperiod : fpow 0x02 255 = 0x01 := (fpow_two_eq_one_iff 255).2 (by decide)
    rw [Tables.gfMul_of_nonzero _ (by decide) (by decide), expMod_buildTables hperiod]
    exact fun h => fpow_two_ne_GEN _ (h.trans (fmul_one Config.GEN))

/-! ### GFMUL -/

theorem exec_gfmul (a b : Byte) (s : State) :
    exec (.gfmul a b) s =
      .next { inputs := s.inputs, responses := s.responses ++ [.ok (gfMul a b)] } :=
  exec_eq_respond (.gfmul a b) s

theorem gfMul_eq_zero_of_or {a b : Byte} (h : a = 0x00 ∨ b = 0x00) : gfMul a b = 0x00 := by
  rcases h with rfl | rfl
  · exact gfMul_zero_left b
  · exact gfMul_zero_right a

theorem answer_gfmul_frame (a b : Byte) : answer [0x02, a, b] = .ok (gfMul a b) :=
  answer_encode (i := .gfmul a b) rfl

/-- Settles O35: GFMUL answers the product, which is 0x00 or an entry of `EXP` as its operands are. -/
theorem gfmulAnswersTheProduct : Obligations.GfmulAnswersTheProduct := by
  unfold Obligations.GfmulAnswersTheProduct
  refine ⟨fun a b s h => ?_, fun a b s ha hb => ?_,
    fun a b => ⟨rfl, decode_encode (i := .gfmul a b) rfl⟩,
    fun rest h => answer_of_length_ne_two (.inr (.inl rfl)) h, ?_⟩
  · rw [exec_gfmul, gfMul_eq_zero_of_or h]
  · rw [exec_gfmul, gfMul_of_nonzero ha hb, Tables.expMod, mulSum]
  · rw [answer_gfmul_frame, gfMul_eq_fmul]
    decide

end Sys2Proof.Machine

/-! ### The laws of the quotient -/

namespace Sys2Proof.Machine

theorem gfDiv_self {b : Byte} (hb : b ≠ 0x00) : gfDiv b b = some 0x01 :=
  (gfDiv_eq_some_iff hb).2 (one_gfMul b)

/-- Settles O39: each law is the product that says what the quotient is (`gfDiv_eq_some_iff`). -/
theorem lawsOfDivision : Obligations.LawsOfDivision := by
  unfold Obligations.LawsOfDivision
  intro b hb
  obtain ⟨v, hv, hmul⟩ := exists_gfDiv_eq_some 0x01 hb
  refine ⟨fun a => exists_gfDiv_eq_some a hb, fun a => (gfDiv_eq_some_iff hb).2 rfl,
    fun a => (gfDiv_eq_some_iff (by decide)).2 (gfMul_one a), gfDiv_self hb, gfDiv_zero_left hb,
    v, hv, by rw [gfMul_comm, hmul], fun a => (gfDiv_eq_some_iff hb).2 ?_⟩
  rw [gfMul_assoc, hmul, gfMul_one]

/-! ### The divider's index (R78) -/

theorem divSum_mod_of_le {la lb : Byte} (hla : la.toNat ≤ 254) (h : lb.toNat ≤ la.toNat) :
    divSum la lb % 255 = la.toNat - lb.toNat := by
  unfold divSum
  omega

theorem divSum_mod_of_lt {la lb : Byte} (hlb : lb.toNat ≤ 254) (h : la.toNat < lb.toNat) :
    divSum la lb % 255 = la.toNat + 255 - lb.toNat := by
  unfold divSum
  omega

/-- Equal logarithms are those of equal operands. -/
theorem divSum_LOG_eq_255_iff {a b : Byte} (ha : a ≠ 0x00) (hb : b ≠ 0x00) :
    divSum (rom.LOG a) (rom.LOG b) = 255 ↔ a = b := by
  constructor
  · intro h
    refine LOG_inj ha hb ?_
    have := LOG_le hb
    unfold divSum at h
    omega
  · rintro rfl
    exact Nat.add_sub_cancel_left ..

/-- Settles O30: the sum lies from 1 to 509, so at most one 255 is taken off. -/
theorem dividerIndexIsTheDifferenceOfLogs : Obligations.DividerIndexIsTheDifferenceOfLogs := by
  unfold Obligations.DividerIndexIsTheDifferenceOfLogs
  intro a b ha hb
  obtain ⟨-, hpos, hle, -, hmod, -, -⟩ := tableIndicesAreInBounds a b ha hb
  refine ⟨hpos, hle, hmod, fun h => Nat.mod_eq_of_lt (Nat.lt_succ_of_le h), fun h => ?_,
    divSum_mod_of_le (LOG_le ha), divSum_mod_of_lt (LOG_le hb), divSum_LOG_eq_255_iff ha hb, ?_⟩
  · omega
  · rintro rfl
    exact gfDiv_self ha

/-! ### A zero denominator ends the interpolation (R79) -/

theorem lagrangeTerm_of_den_eq_zero {p : Point} {others : List Point}
    (h : lagrangeDen p.x others = 0x00) : lagrangeTerm p others = none := by
  rw [lagrangeTerm, h, gfDiv_zero_right, Option.map_none]

/-- The loop survives no point whose term has no value, however many stand before it. -/
theorem lagrangeLoop_eq_none_of_getElem? {pts rest : List Point} {j i : Nat} {p : Point} {acc : Byte}
    (hp : rest[i]? = some p) (hterm : lagrangeTerm p (pts.eraseIdx (j + i)) = none) :
    lagrangeLoop pts j rest acc = none := by
  induction rest generalizing i j acc with
  | nil => cases hp
  | cons q rest ih =>
    cases i with
    | zero =>
      cases hp
      exact lagrangeLoop_of_none hterm
    | succ i =>
      cases hq : lagrangeTerm q (pts.eraseIdx j) with
      | none => exact lagrangeLoop_of_none hq
      | some term =>
        rw [lagrangeLoop_of_some hq]
        exact ih hp (by rwa [Nat.add_right_comm, Nat.add_assoc])

theorem linterp_eq_none_of_den_eq_zero {pts : List Point} {j : Nat} {p : Point}
    (hp : pts[j]? = some p) (hden : lagrangeDen p.x (pts.eraseIdx j) = 0x00) : linterp pts = none :=
  lagrangeLoop_eq_none_of_getElem? hp (by rw [Nat.zero_add, lagrangeTerm_of_den_eq_zero hden])

/-! ### GFDIV -/

theorem exec_gfdiv_of_some {a b q : Byte} (h : gfDiv a b = some q) (s : State) :
    exec (.gfdiv a b) s = .next { inputs := s.inputs, responses := s.responses ++ [.ok q] } :=
  execGfdiv_of_some h s

theorem exec_gfdiv_zero (a : Byte) (s : State) :
    exec (.gfdiv a 0x00) s =
      .next { inputs := s.inputs, responses := s.responses ++ [.fault .divideByZero] } :=
  execGfdiv_of_none (gfDiv_zero_right a) s

theorem answer_gfdiv_frame (a b : Byte) :
    answer [0x03, a, b] = ((gfDiv a b).map Response.ok).getD (.fault .divideByZero) :=
  answer_encode (i := .gfdiv a b) rfl

/-- Settles O38: the divisor test comes first over any tables, and the interpolator divides by each
denominator until one division has no value. -/
theorem divisionByZeroHasNoValue : Obligations.DivisionByZeroHasNoValue := by
  unfold Obligations.DivisionByZeroHasNoValue
  refine ⟨fun t a => if_pos rfl, fun a => ?_, ?_⟩
  · rw [answer_gfdiv_frame, gfDiv_zero_right]
    rfl
  · rintro p0 ps s ⟨j, p, hp, hden⟩
    exact execLinterp_of_none (linterp_eq_none_of_den_eq_zero hp hden) s

/-- Settles O37: GFDIV answers the quotient, which is 0x00 or an entry of `EXP` as the dividend is, and
`DivideByZero` where there is none. -/
theorem gfdivAnswersTheQuotient : Obligations.GfdivAnswersTheQuotient := by
  unfold Obligations.GfdivAnswersTheQuotient
  refine ⟨fun a b s ha hb => exec_gfdiv_of_some (gfDiv_of_nonzero ha hb) s,
    fun b s hb => exec_gfdiv_of_some (gfDiv_zero_left hb) s, exec_gfdiv_zero,
    fun a b => ⟨rfl, decode_encode (i := .gfdiv a b) rfl⟩,
    fun rest h => answer_of_length_ne_two (.inr (.inr rfl)) h, ?_⟩
  have hquot : gfDiv 0x57 0x83 = some 0x38 := by
    rw [gfDiv_eq_some_iff (by decide), gfMul_eq_fmul]
    decide
  rw [answer_gfdiv_frame, hquot]
  rfl

end Sys2Proof.Machine

/-! ### The evaluator (R83 to R85) -/

namespace Sys2Proof.Machine

/-- Settles O41, by induction on the coefficients below the top one: each of them is the last that the fold
adds. -/
theorem hornerRunsFromTheTopCoefficientDown : Obligations.HornerRunsFromTheTopCoefficientDown := by
  unfold Obligations.HornerRunsFromTheTopCoefficientDown
  intro x c0 top cs front h
  induction front generalizing c0 cs with
  | nil =>
    cases h
    rfl
  | cons c front ih =>
    obtain ⟨rfl, hcs⟩ := List.cons_eq_cons.1 h
    cases cs with
    | nil => simp at hcs
    | cons c1 cs =>
      rw [peval_cons, ih c1 cs hcs, List.reverse_cons, List.foldl_append, List.foldl_cons,
        List.foldl_nil]

@[simp] theorem gfSum_nil : gfSum [] = 0x00 := rfl

theorem gfSum_cons (v : Byte) (vs : List Byte) : gfSum (v :: vs) = gfAdd v (gfSum vs) := by
  have : Std.Associative gfAdd := ⟨gfAdd_assoc⟩
  rw [gfSum, List.foldl_cons, gfAdd_comm, List.foldl_assoc, gfSum]

theorem gfAdd_gfMul (a b c : Byte) : gfMul (gfAdd a b) c = gfAdd (gfMul a c) (gfMul b c) := by
  simp only [gfMul_comm _ c, gfMul_gfAdd]

theorem gfSum_mapIdx_gfMul (f : Nat → Byte → Byte) (vs : List Byte) (x : Byte) :
    gfSum (vs.mapIdx fun k v => gfMul (f k v) x) = gfMul (gfSum (vs.mapIdx f)) x := by
  induction vs generalizing f with
  | nil => exact (gfMul_zero_left x).symm
  | cons v vs ih => simp only [List.mapIdx_cons, gfSum_cons, gfAdd_gfMul, ih]

/-- The terms after the constant one have x as a common factor. -/
theorem polynomialValue_cons (x c0 : Byte) (cs : List Byte) :
    polynomialValue x (c0 :: cs) = gfAdd (gfMul (polynomialValue x cs) x) c0 := by
  simp only [polynomialValue, List.mapIdx_cons, gfSum_cons, ← gfSum_mapIdx_gfMul, gfPow, gfMul_one,
    gfMul_assoc, gfAdd_comm c0]

theorem peval_eq_polynomialValue (x c0 : Byte) (cs : List Byte) :
    peval x c0 cs = polynomialValue x (c0 :: cs) := by
  induction cs generalizing c0 with
  | nil => rw [polynomialValue_cons, polynomialValue, List.mapIdx_nil, gfSum_nil, gfMul_zero_left,
      gfAdd_zero_left, peval_nil]
  | cons c1 cs ih => rw [polynomialValue_cons, peval_cons, ih]

/-- Settles O42, by induction on the coefficients: one pass of the evaluator takes x out of every term but
the constant one. -/
theorem evaluatorGivesThePolynomialSum : Obligations.EvaluatorGivesThePolynomialSum := by
  unfold Obligations.EvaluatorGivesThePolynomialSum
  exact peval_eq_polynomialValue

theorem peval_at_zero (c0 : Byte) (cs : List Byte) : peval 0x00 c0 cs = c0 := by
  cases cs with
  | nil => rfl
  | cons c1 cs => rw [peval_cons, gfMul_zero_right, gfAdd_zero_left]

theorem peval_at_one (c0 : Byte) (cs : List Byte) : peval 0x01 c0 cs = gfSum (c0 :: cs) := by
  induction cs generalizing c0 with
  | nil => exact (gfAdd_zero_left c0).symm
  | cons c1 cs ih => rw [peval_cons, gfMul_one, ih, gfAdd_comm, ← gfSum_cons]

theorem peval_replicate_zero (x c0 : Byte) (k : Nat) : peval x c0 (List.replicate k 0x00) = c0 := by
  induction k generalizing c0 with
  | zero => rfl
  | succ k ih => rw [List.replicate_succ, peval_cons, ih, gfMul_zero_left, gfAdd_zero_left]

theorem gfMul_two (v : Byte) : gfMul v 0x02 = xtime v := (gfMul_eq_fmul v _).trans (fmul_two v)

theorem gfPow_eq_fpow (x : Byte) (k : Nat) : gfPow x k = fpow x k := by
  induction k with
  | zero => rfl
  | succ k ih => rw [gfPow, fpow, gfMul_eq_fmul, ih]

/-- The geometric sum `1 + x + … + x^n`, times `x + 1`. -/
theorem gfMul_peval_replicate_one (x : Byte) (n : Nat) :
    gfMul (gfAdd x 0x01) (peval x 0x01 (List.replicate n 0x01)) = gfAdd (gfPow x (n + 1)) 0x01 := by
  induction n with
  | zero => rw [List.replicate_zero, peval_nil, gfMul_one, gfPow, gfPow, one_gfMul]
  | succ n ih =>
    rw [List.replicate_succ, peval_cons, gfMul_gfAdd, ← gfMul_assoc, ih, gfMul_one, gfAdd_gfMul,
      one_gfMul, gfAdd_assoc, ← gfAdd_assoc x, gfAdd_self, gfAdd_zero_left]
    rfl

/-- The 255 nonzero bytes are the powers of `GEN`, and their sum is 0x00 because `GEN^255` is 0x01. -/
theorem peval_GEN_replicate_one : peval Config.GEN 0x01 (List.replicate 254 0x01) = 0x00 := by
  have hzero := gfMul_peval_replicate_one Config.GEN 254
  rw [gfPow_eq_fpow, fpow_GEN_255, gfAdd_self] at hzero
  exact (eq_zero_or_eq_zero_of_gfMul_eq_zero hzero).resolve_left (by decide)

/-- Equal terms cancel in pairs. -/
theorem gfSum_replicate_two_mul (v : Byte) (k : Nat) : gfSum (List.replicate (2 * k) v) = 0x00 := by
  induction k with
  | zero => rfl
  | succ k ih =>
    rw [Nat.mul_succ, List.replicate_succ, List.replicate_succ, gfSum_cons, gfSum_cons, ih,
      gfAdd_zero_right, gfAdd_self]

/-- Settles O43: each clause is a lemma about the evaluator; the list of 255 ones is a geometric sum at 0x03
and an odd number of equal terms at 0x01. -/
theorem evaluatorCornerCases : Obligations.EvaluatorCornerCases := by
  unfold Obligations.EvaluatorCornerCases
  refine ⟨peval_nil, peval_at_zero, peval_at_one, peval_replicate_zero, ?_, ?_, peval_nil _ _,
    peval_GEN_replicate_one, ?_⟩
  · rw [peval_cons, peval_cons, peval_cons, peval_nil, gfMul_two, gfMul_two, gfMul_two]
    decide
  · rw [peval_cons, peval_nil, one_gfMul, gfAdd_zero_right]
  · rw [peval_at_one, gfSum_cons, gfSum_replicate_two_mul _ 127, gfAdd_zero_right]

/-! ### PEVAL -/

/-- A frame of PEVAL has a nonzero count after its opcode, then x and as many coefficients (R49, R57). -/
theorem answer_peval_of_bad_count {n : Byte} {rest : List Byte}
    (h : n = 0x00 ∨ rest.length ≠ n.toNat + 1) :
    answer (0x04 :: n :: rest) = .fault .badLength := by
  rw [answer_eq_fault_iff (by decide), decode_cons_eq_badLength_iff]
  refine .inr (.inl ⟨rfl, .inr ⟨n, rest, rfl, h.imp_right fun hlen => ?_⟩⟩)
  simpa using hlen

/-- Settles O40: PEVAL answers the evaluator's value, and its frames are those whose count byte is the
number of coefficients. -/
theorem pevalAnswersThePolynomialValue : Obligations.PevalAnswersThePolynomialValue := by
  unfold Obligations.PevalAnswersThePolynomialValue
  refine ⟨fun x c0 cs s => exec_eq_respond (.peval x c0 cs) s, fun x c0 cs hlen => ⟨?_, rfl⟩, rfl,
    fun n rest => answer_peval_of_bad_count, ?_⟩
  · exact decode_encode (wellFormed_peval_iff.2 (Nat.succ_le_succ hlen))
  · have hvalue : peval 0x02 0x48 [0x1d, 0xa7] = 0xd8 := by
      rw [peval_cons, peval_cons, peval_nil, gfMul_two, gfMul_two]
      decide
    rw [← hvalue]
    exact congrArg Response.bytes (answer_encode (i := .peval 0x02 0x48 [0x1d, 0xa7]) rfl)

end Sys2Proof.Machine

/-! ### The residues of the bytes are a field -/

namespace Sys2Proof.Machine

open Polynomial

theorem residue_gfAdd (a b : Byte) : residue (gfAdd a b) = residue a + residue b := residue_xor a b

theorem residue_gfMul (a b : Byte) : residue (gfMul a b) = residue a * residue b := by
  rw [gfMul_eq_fmul, residue_fmul]

theorem neg_residue (a : Byte) : -residue a = residue a :=
  neg_eq_of_add_eq_zero_left (by rw [← residue_gfAdd, gfAdd_self]; exact residue_zero)

/-- Subtraction is the adder too (R9, R91). -/
theorem residue_gfAdd_eq_sub (a b : Byte) : residue (gfAdd a b) = residue a - residue b := by
  rw [sub_eq_add_neg, neg_residue, residue_gfAdd]

theorem residue_two : residue 2#8 = AdjoinRoot.root modulus := by
  have hX : bitPoly 2#8 = X := by simp [bitPoly, Finset.sum_range_succ]
  rw [residue, hX, AdjoinRoot.mk_X]

/-- The residues of bytes hold 0, 1 and the root, and are closed under sums and products. -/
theorem residue_surjective : Function.Surjective residue := by
  intro r
  obtain ⟨p, rfl⟩ := AdjoinRoot.mk_surjective r
  induction p using Polynomial.induction_on with
  | C c =>
    have hbit : ∀ c : ZMod 2, c = 0 ∨ c = 1 := by decide
    rcases hbit c with rfl | rfl
    · exact ⟨0#8, by rw [residue_zero, C_0, map_zero]⟩
    · exact ⟨1#8, by rw [residue_one, C_1, map_one]⟩
  | add p q hp hq =>
    obtain ⟨a, ha⟩ := hp
    obtain ⟨b, hb⟩ := hq
    exact ⟨gfAdd a b, by rw [residue_gfAdd, ha, hb, map_add]⟩
  | monomial n c h =>
    obtain ⟨a, ha⟩ := h
    exact ⟨gfMul a 2#8, by
      rw [residue_gfMul, ha, residue_two, ← AdjoinRoot.mk_X, ← map_mul, mul_assoc, ← pow_succ]⟩

theorem isField_residues : IsField (AdjoinRoot modulus) where
  exists_pair_ne := ⟨residue 0#8, residue 1#8, residue_injective.ne (by decide)⟩
  mul_comm := mul_comm
  mul_inv_cancel := by
    intro r hr
    obtain ⟨a, rfl⟩ := residue_surjective r
    have ha : a ≠ 0x00 := fun h => hr (h ▸ residue_zero)
    obtain ⟨b, hb⟩ := exists_fmul_eq_one ha
    exact ⟨residue b, (residue_fmul a b).symm.trans (hb ▸ residue_one)⟩

/-- The reduction polynomial is irreducible (R17), because the residues modulo it are a field. -/
theorem irreducible_modulus : Irreducible modulus := by
  have hmax : (Ideal.span {modulus}).IsMaximal := Ideal.Quotient.maximal_of_isField _ isField_residues
  exact ((Ideal.span_singleton_prime modulus_monic.ne_zero).1 hmax.isPrime).irreducible

theorem residue_ne_zero {a : Byte} (ha : a ≠ 0x00) : residue a ≠ 0 :=
  fun h => ha (residue_injective (h.trans residue_zero.symm))

theorem map_residue_gfDiv [Fact (Irreducible modulus)] (a : Byte) {b : Byte} (hb : b ≠ 0x00) :
    (gfDiv a b).map residue = some (residue a / residue b) := by
  obtain ⟨q, hq, hmul⟩ := exists_gfDiv_eq_some a hb
  rw [hq, Option.map_some, ← hmul, residue_gfMul, mul_div_cancel_right₀ _ (residue_ne_zero hb)]

/-! ### A coefficient list as a polynomial over the field -/

/-- The polynomial whose coefficients are the residues of the list, the constant term first (R84). -/
noncomputable def coeffPoly : List Byte → (AdjoinRoot modulus)[X]
  | [] => 0
  | c :: cs => coeffPoly cs * X + C (residue c)

theorem eval_coeffPoly (x : Byte) (cs : List Byte) :
    (coeffPoly cs).eval (residue x) = residue (polynomialValue x cs) := by
  induction cs with
  | nil => simp [coeffPoly, polynomialValue]
  | cons c cs ih =>
    rw [coeffPoly, eval_add, eval_mul, eval_X, eval_C, ih, polynomialValue_cons, residue_gfAdd,
      residue_gfMul]

theorem eval_zero_coeffPoly_cons (c : Byte) (cs : List Byte) :
    (coeffPoly (c :: cs)).eval 0 = residue c := by
  simp [coeffPoly]

theorem coeff_coeffPoly (cs : List Byte) (k : Nat) : (coeffPoly cs).coeff k = residue (cs.getD k 0x00) := by
  induction cs generalizing k with
  | nil => simp [coeffPoly]
  | cons c cs ih =>
    cases k with
    | zero => simp [coeffPoly]
    | succ k => simp [coeffPoly, ih]

theorem degree_coeffPoly_lt (cs : List Byte) : (coeffPoly cs).degree < cs.length := by
  rw [degree_lt_iff_coeff_zero]
  intro k hk
  rw [coeff_coeffPoly, List.getD_eq_default _ _ hk]
  exact residue_zero

/-- Lists of one length with one polynomial are equal. -/
theorem eq_of_coeffPoly_eq {cs ds : List Byte} (hlen : cs.length = ds.length)
    (h : coeffPoly cs = coeffPoly ds) : cs = ds := by
  refine List.ext_getElem hlen fun k hc hd => residue_injective ?_
  rw [← List.getD_eq_getElem cs 0x00 hc, ← List.getD_eq_getElem ds 0x00 hd, ← coeff_coeffPoly,
    ← coeff_coeffPoly, h]

/-- A polynomial of degree below n comes from a list of n coefficients: every residue is a byte's. -/
theorem exists_coeffPoly_eq {P : (AdjoinRoot modulus)[X]} {n : Nat} (h : P.degree < n) :
    ∃ cs, cs.length = n ∧ coeffPoly cs = P := by
  choose byteOf hbyteOf using residue_surjective
  refine ⟨(List.range n).map fun k => byteOf (P.coeff k), by simp, ?_⟩
  ext k
  rw [coeff_coeffPoly]
  rcases lt_or_ge k n with hk | hk
  · simp [hk, hbyteOf]
  · simp [hk, degree_lt_iff_coeff_zero _ _ |>.1 h k hk]

end Sys2Proof.Machine

/-! ### The interpolator's terms, its loop and its faults -/

namespace Sys2Proof.Machine

/-! #### Products of factors (R91) -/

theorem gfProduct_cons (v : Byte) (vs : List Byte) : gfProduct (v :: vs) = gfMul v (gfProduct vs) := by
  have : Std.Associative gfMul := ⟨gfMul_assoc⟩
  rw [gfProduct, List.foldl_cons, gfMul_comm, List.foldl_assoc, gfProduct]

theorem gfProduct_eq_zero_iff (vs : List Byte) : gfProduct vs = 0x00 ↔ 0x00 ∈ vs := by
  induction vs with
  | nil => exact iff_of_false (by decide) List.not_mem_nil
  | cons v vs ih =>
    rw [gfProduct_cons, List.mem_cons, ← ih, eq_comm (b := v)]
    exact ⟨eq_zero_or_eq_zero_of_gfMul_eq_zero, gfMul_eq_zero_of_or⟩

theorem residue_gfProduct (vs : List Byte) : residue (gfProduct vs) = (vs.map residue).prod := by
  induction vs with
  | nil => exact residue_one
  | cons v vs ih => rw [gfProduct_cons, residue_gfMul, ih, List.map_cons, List.prod_cons]

theorem gfProduct_eq_of_perm {vs vs' : List Byte} (h : vs.Perm vs') : gfProduct vs = gfProduct vs' :=
  residue_injective (by rw [residue_gfProduct, residue_gfProduct, (h.map residue).prod_eq])

theorem gfDiv_gfMul_gfMul (a b c d : Byte) :
    gfDiv (gfMul a c) (gfMul b d) = (gfDiv a b).bind fun q => (gfDiv c d).map (gfMul q) := by
  rcases eq_or_ne b 0x00 with rfl | hb
  · rw [gfMul_zero_left, gfDiv_zero_right, gfDiv_zero_right, Option.bind_none]
  rcases eq_or_ne d 0x00 with rfl | hd
  · simp only [gfMul_zero_right, gfDiv_zero_right, Option.map_none, Option.bind_fun_none]
  obtain ⟨q, hq, hmul⟩ := exists_gfDiv_eq_some a hb
  obtain ⟨r, hr, hmul'⟩ := exists_gfDiv_eq_some c hd
  rw [hq, hr, Option.bind_some, Option.map_some, gfDiv_eq_some_iff (gfMul_ne_zero hb hd), ← hmul,
    ← hmul']
  exact residue_injective (by simp only [residue_gfMul, mul_mul_mul_comm])

/-- A quotient of products is the product of the quotients, with no value where one of them has none. -/
theorem gfDiv_gfProduct {α : Type} (f g : α → Byte) (l : List α) :
    gfDiv (gfProduct (l.map f)) (gfProduct (l.map g)) =
      (l.mapM fun a => gfDiv (f a) (g a)).map gfProduct := by
  induction l with
  | nil => exact gfDiv_self (b := 0x01) (by decide)
  | cons a l ih =>
    rw [List.map_cons, List.map_cons, gfProduct_cons, gfProduct_cons, gfDiv_gfMul_gfMul, ih,
      List.mapM_cons]
    cases gfDiv (f a) (g a) with
    | none => rfl
    | some q =>
      cases l.mapM fun a => gfDiv (f a) (g a) with
      | none => rfl
      | some qs => exact congrArg some (gfProduct_cons q qs).symm

/-! #### The terms (R90, R91) -/

theorem lagrangeNum_eq_gfProduct (others : List Point) :
    lagrangeNum others = gfProduct (others.map Point.x) := by
  rw [gfProduct, List.foldl_map, lagrangeNum]

theorem lagrangeDen_eq_gfProduct (xj : Byte) (others : List Point) :
    lagrangeDen xj others = gfProduct (others.map fun p => gfAdd xj p.x) := by
  rw [gfProduct, List.foldl_map, lagrangeDen]

theorem lagrangeDen_eq_zero_iff (xj : Byte) (others : List Point) :
    lagrangeDen xj others = 0x00 ↔ ∃ q ∈ others, q.x = xj := by
  simp only [lagrangeDen_eq_gfProduct, gfProduct_eq_zero_iff, List.mem_map, gfAdd_eq_zero_iff,
    eq_comm (a := xj)]

theorem lagrangeTerm_eq_of_perm (p : Point) {others others' : List Point} (h : others.Perm others') :
    lagrangeTerm p others = lagrangeTerm p others' := by
  simp only [lagrangeTerm, lagrangeNum_eq_gfProduct, lagrangeDen_eq_gfProduct,
    gfProduct_eq_of_perm (h.map _)]

theorem lagrangeTerm_eq_lagrangeFormulaTerm (p : Point) (others : List Point) :
    lagrangeTerm p others = lagrangeFormulaTerm p others := by
  rw [lagrangeTerm, lagrangeNum_eq_gfProduct, lagrangeDen_eq_gfProduct, gfDiv_gfProduct,
    lagrangeFormulaTerm, Option.map_map]
  rfl

theorem exists_lagrangeTerm_eq_some {p : Point} {others : List Point}
    (h : lagrangeDen p.x others ≠ 0x00) : ∃ term, lagrangeTerm p others = some term := by
  obtain ⟨q, hq, -⟩ := exists_gfDiv_eq_some (lagrangeNum others) h
  exact ⟨gfMul p.y q, by rw [lagrangeTerm, hq, Option.map_some]⟩

/-! #### The loop (R90) -/

/-- The loop adds up the terms that are still to come, unless one of them has no value. -/
theorem lagrangeLoop_eq_sum (pts rest : List Point) (j : Nat) (acc : Byte) :
    lagrangeLoop pts j rest acc =
      ((rest.mapIdx fun i p => lagrangeTerm p (pts.eraseIdx (j + i))).mapM id).map
        fun terms => gfAdd acc (gfSum terms) := by
  induction rest generalizing j acc with
  | nil => exact congrArg some (gfAdd_zero_right acc).symm
  | cons p rest ih =>
    rw [List.mapIdx_cons, List.mapM_cons]
    cases hterm : lagrangeTerm p (pts.eraseIdx j) with
    | none => simp [lagrangeLoop_of_none hterm]
    | some term =>
      rw [lagrangeLoop_of_some hterm, ih]
      simp only [Nat.add_assoc, Nat.add_comm 1]
      cases (rest.mapIdx fun i p => lagrangeTerm p (pts.eraseIdx (j + (i + 1)))).mapM id with
      | none => rfl
      | some terms =>
        have hacc : gfAdd (gfAdd acc term) (gfSum terms) = gfAdd acc (gfSum (term :: terms)) := by
          rw [gfSum_cons, gfAdd_assoc]
        exact congrArg some hacc

theorem linterp_eq_sum (pts : List Point) :
    linterp pts = ((pts.mapIdx fun j p => lagrangeTerm p (pts.eraseIdx j)).mapM id).map gfSum := by
  simp only [linterp, lagrangeLoop_eq_sum, gfAdd_zero_left, Nat.zero_add]

/-- Settles O45: point by point the quotient of products is the product of quotients, and a product does not
depend on the order of its factors. -/
theorem bothReadingsOfTheFormulaAgree : Obligations.BothReadingsOfTheFormulaAgree := by
  unfold Obligations.BothReadingsOfTheFormulaAgree
  refine ⟨fun pts => ?_, fun p _ _ h => lagrangeTerm_eq_of_perm p h⟩
  simp only [linterp_eq_sum, lagrangeTerm_eq_lagrangeFormulaTerm, lagrangeFormula]

theorem isSome_lagrangeLoop {pts rest : List Point} {j : Nat} {acc : Byte}
    (h : ∀ i p, rest[i]? = some p → lagrangeDen p.x (pts.eraseIdx (j + i)) ≠ 0x00) :
    (lagrangeLoop pts j rest acc).isSome = true := by
  induction rest generalizing j acc with
  | nil => rfl
  | cons p rest ih =>
    obtain ⟨term, hterm⟩ := exists_lagrangeTerm_eq_some (h 0 p rfl)
    rw [lagrangeLoop_of_some (Nat.add_zero j ▸ hterm)]
    exact ih fun i q hq => by simpa [Nat.add_assoc, Nat.add_comm 1] using h (i + 1) q hq

/-! #### Faults on equal x (R93) -/

theorem lagrangeDen_eraseIdx_eq_zero_iff (xj : Byte) (pts : List Point) (j : Nat) :
    lagrangeDen xj (pts.eraseIdx j) = 0x00 ↔ ∃ k q, k ≠ j ∧ pts[k]? = some q ∧ q.x = xj := by
  rw [lagrangeDen_eq_zero_iff]
  simp only [List.mem_eraseIdx_iff_getElem?]
  constructor
  · rintro ⟨q, ⟨k, hkj, hq⟩, hx⟩
    exact ⟨k, q, hkj, hq, hx⟩
  · rintro ⟨k, q, hkj, hq, hx⟩
    exact ⟨q, ⟨k, hkj, hq⟩, hx⟩

/-- Points have distinct x exactly when none has a twin. -/
theorem distinctX_iff (pts : List Point) : DistinctX pts ↔
    ∀ (j : Nat) (p : Point), pts[j]? = some p → ¬ ∃ k q, k ≠ j ∧ pts[k]? = some q ∧ q.x = p.x := by
  constructor
  · rintro h j p hp ⟨k, q, hkj, hq, hx⟩
    have hlt : k < (pts.map Point.x).length := by
      rw [List.length_map]
      exact (List.getElem?_eq_some_iff.1 hq).1
    exact hkj ((List.getElem?_inj hlt h).1 (by simp [hp, hq, hx]))
  · intro h
    refine List.nodup_iff_getElem?_ne_getElem?.2 fun i j hij hj heq => ?_
    rw [List.length_map] at hj
    have hx : (pts[i]).x = (pts[j]).x := by simpa [hij.trans hj, hj] using heq
    exact h j _ (List.getElem?_eq_getElem hj) ⟨i, _, hij.ne, List.getElem?_eq_getElem _, hx⟩

theorem distinctX_iff_den_ne_zero (pts : List Point) : DistinctX pts ↔
    ∀ j p, pts[j]? = some p → lagrangeDen p.x (pts.eraseIdx j) ≠ 0x00 := by
  simp only [distinctX_iff, ne_eq, lagrangeDen_eraseIdx_eq_zero_iff]

theorem linterp_eq_none_iff (pts : List Point) : linterp pts = none ↔ ¬ DistinctX pts := by
  rw [distinctX_iff_den_ne_zero]
  constructor
  · intro hnone hden
    have hsome := isSome_lagrangeLoop (pts := pts) (j := 0) (acc := 0x00) fun i p hp => by
      simpa using hden i p hp
    rw [← linterp, hnone] at hsome
    cases hsome
  · intro h
    push Not at h
    obtain ⟨j, p, hp, hden⟩ := h
    exact linterp_eq_none_of_den_eq_zero hp hden

/-- Settles O46: a product is 0x00 exactly when a factor is, and the factor of a twin is. -/
theorem interpolatorFaultsExactlyOnEqualX : Obligations.InterpolatorFaultsExactlyOnEqualX := by
  unfold Obligations.InterpolatorFaultsExactlyOnEqualX
  refine ⟨fun pts j p _ => lagrangeDen_eraseIdx_eq_zero_iff p.x pts j, fun pts j h => ?_,
    fun _ _ _ _ => lagrangeTerm_of_den_eq_zero, fun p0 ps => ⟨linterp_eq_none_iff _, fun h => ?_⟩⟩
  · refine isSome_lagrangeLoop fun i p hp => ?_
    rw [List.getElem?_take, Option.ite_none_right_eq_some] at hp
    rw [Nat.zero_add]
    exact h i p hp.1 hp.2
  · rw [commandResponse, (linterp_eq_none_iff _).2 h]
    rfl

/-! #### The sum over the points in any order (R95) -/

/-- A point's term in a form that does not speak of its position. -/
theorem linterp_eq_sum_erase (pts : List Point) :
    linterp pts = ((pts.map fun p => lagrangeTerm p (pts.erase p)).mapM id).map gfSum := by
  rw [linterp_eq_sum]
  congr 2
  refine List.ext_getElem (by simp) fun j hj _ => ?_
  rw [List.length_mapIdx] at hj
  rw [List.getElem_mapIdx, List.getElem_map]
  exact lagrangeTerm_eq_of_perm _ (List.erase_getElem hj).symm

/-- A sum of terms that all have values is the sum in the field. -/
theorem map_residue_sum {l : List Point} {f : Point → Option Byte} {g : Point → AdjoinRoot modulus}
    (h : ∀ p ∈ l, (f p).map residue = some (g p)) :
    (((l.map f).mapM id).map gfSum).map residue = some (l.map g).sum := by
  induction l with
  | nil => exact congrArg some residue_zero
  | cons p l ih =>
    obtain ⟨v, hv, hres⟩ := Option.map_eq_some_iff.1 (h p List.mem_cons_self)
    obtain ⟨w, hw, hres'⟩ := Option.map_eq_some_iff.1 (ih fun q hq => h q (List.mem_cons_of_mem p hq))
    obtain ⟨vs, hvs, rfl⟩ := Option.map_eq_some_iff.1 hw
    simp [hv, hvs, gfSum_cons, residue_gfAdd, hres, hres']

end Sys2Proof.Machine

/-! ### Interpolation over the field -/

namespace Sys2Proof.Machine

open Polynomial

theorem DistinctX.nodup {pts : List Point} (h : DistinctX pts) : pts.Nodup := List.Nodup.of_map _ h

theorem DistinctX.injOn_residue {pts : List Point} (h : DistinctX pts) :
    Set.InjOn (fun p : Point => residue p.x) pts.toFinset := by
  intro p hp q hq hpq
  exact List.inj_on_of_nodup_map h (List.mem_toFinset.1 hp) (List.mem_toFinset.1 hq)
    (residue_injective hpq)

theorem DistinctX.card_toFinset {pts : List Point} (h : DistinctX pts) :
    pts.toFinset.card = pts.length := List.toFinset_card_of_nodup h.nodup

theorem DistinctX.lagrangeDen_erase_ne_zero {pts : List Point} (h : DistinctX pts) {p : Point}
    (hp : p ∈ pts) : lagrangeDen p.x (pts.erase p) ≠ 0x00 := by
  rw [ne_eq, lagrangeDen_eq_zero_iff]
  rintro ⟨q, hq, hx⟩
  obtain ⟨hne, hmem⟩ := h.nodup.mem_erase_iff.1 hq
  exact hne (List.inj_on_of_nodup_map h hmem hp hx)

theorem residue_lagrangeNum {others : List Point} (h : others.Nodup) :
    residue (lagrangeNum others) = ∏ q ∈ others.toFinset, residue q.x := by
  rw [lagrangeNum_eq_gfProduct, residue_gfProduct, List.map_map, List.prod_toFinset _ h]
  rfl

theorem residue_lagrangeDen (xj : Byte) {others : List Point} (h : others.Nodup) :
    residue (lagrangeDen xj others) = ∏ q ∈ others.toFinset, residue (gfAdd xj q.x) := by
  rw [lagrangeDen_eq_gfProduct, residue_gfProduct, List.map_map, List.prod_toFinset _ h]
  rfl

section

variable [Fact (Irreducible modulus)]

/-- A factor of the basis polynomial is at 0 the quotient of the formula: signs change nothing (R91). -/
theorem eval_zero_basisDivisor (a b : Byte) :
    (Lagrange.basisDivisor (residue a) (residue b)).eval 0 =
      residue b / residue (gfAdd a b) := by
  rw [Lagrange.basisDivisor, eval_mul, eval_C, eval_sub, eval_X, eval_C, zero_sub, neg_residue,
    residue_gfAdd_eq_sub, mul_comm, div_eq_mul_inv]

theorem eval_zero_basis {pts : List Point} (h : pts.Nodup) (p : Point) :
    (Lagrange.basis pts.toFinset (fun q => residue q.x) p).eval 0 =
      residue (lagrangeNum (pts.erase p)) / residue (lagrangeDen p.x (pts.erase p)) := by
  have hothers : pts.toFinset.erase p = (pts.erase p).toFinset := by
    ext q
    simp [h.mem_erase_iff]
  rw [Lagrange.basis, hothers, eval_prod, residue_lagrangeNum (h.erase p),
    residue_lagrangeDen p.x (h.erase p), ← Finset.prod_div_distrib]
  exact Finset.prod_congr rfl fun q _ => eval_zero_basisDivisor p.x q.x

/-- A point's term is its y times the value at 0 of its Lagrange basis polynomial. -/
theorem map_residue_lagrangeTerm {pts : List Point} (h : DistinctX pts) {p : Point} (hp : p ∈ pts) :
    (lagrangeTerm p (pts.erase p)).map residue =
      some (residue p.y * (Lagrange.basis pts.toFinset (fun q => residue q.x) p).eval 0) := by
  have hquot := map_residue_gfDiv (lagrangeNum (pts.erase p)) (h.lagrangeDen_erase_ne_zero hp)
  obtain ⟨q, hq, hres⟩ := Option.map_eq_some_iff.1 hquot
  rw [lagrangeTerm, hq, Option.map_some, Option.map_some, residue_gfMul, hres, eval_zero_basis h.nodup]

/-- The polynomial over the field through the points (R89). -/
noncomputable def pointsPoly (pts : List Point) : (AdjoinRoot modulus)[X] :=
  Lagrange.interpolate pts.toFinset (fun p => residue p.x) (fun p => residue p.y)

/-- On points of distinct x the interpolator gives the value at 0 of the polynomial through them. -/
theorem map_residue_linterp {pts : List Point} (h : DistinctX pts) :
    (linterp pts).map residue = some ((pointsPoly pts).eval 0) := by
  rw [linterp_eq_sum_erase, map_residue_sum fun p hp => map_residue_lagrangeTerm h hp, pointsPoly,
    Lagrange.interpolate_apply, eval_finsetSum, ← List.sum_toFinset _ h.nodup]
  simp only [eval_mul, eval_C]

theorem coeffPoly_eq_pointsPoly {pts : List Point} (h : DistinctX pts) {cs : List Byte}
    (hlen : cs.length ≤ pts.length) (hfit : ∀ p ∈ pts, polynomialValue p.x cs = p.y) :
    coeffPoly cs = pointsPoly pts := by
  refine Lagrange.eq_interpolate_of_eval_eq _ h.injOn_residue ?_ fun p hp => ?_
  · rw [h.card_toFinset]
    exact (degree_coeffPoly_lt cs).trans_le (Nat.cast_le.2 hlen)
  · rw [eval_coeffPoly, hfit p (List.mem_toFinset.1 hp)]

theorem exists_coeffPoly_eq_pointsPoly {pts : List Point} (h : DistinctX pts) :
    ∃ cs, cs.length = pts.length ∧ coeffPoly cs = pointsPoly pts := by
  refine exists_coeffPoly_eq ?_
  rw [← h.card_toFinset]
  exact Lagrange.degree_interpolate_lt _ h.injOn_residue

theorem eval_pointsPoly {pts : List Point} (h : DistinctX pts) {p : Point} (hp : p ∈ pts) :
    (pointsPoly pts).eval (residue p.x) = residue p.y :=
  Lagrange.eval_interpolate_at_node _ h.injOn_residue (List.mem_toFinset.2 hp)

end

theorem fact_irreducible_modulus : Fact (Irreducible modulus) := ⟨irreducible_modulus⟩

/-- Through points of distinct x there is exactly one polynomial of as many coefficients (R96). -/
theorem existsUnique_coefficients {pts : List Point} (h : DistinctX pts) :
    ∃! cs : List Byte, cs.length = pts.length ∧ ∀ p ∈ pts, polynomialValue p.x cs = p.y := by
  have := fact_irreducible_modulus
  obtain ⟨cs, hlen, hcs⟩ := exists_coeffPoly_eq_pointsPoly h
  refine ⟨cs, ⟨hlen, fun p hp => residue_injective ?_⟩, fun ds ⟨hds, hfit⟩ => ?_⟩
  · rw [← eval_coeffPoly, hcs, eval_pointsPoly h hp]
  · exact eq_of_coeffPoly_eq (hds.trans hlen.symm) ((coeffPoly_eq_pointsPoly h hds.le hfit).trans hcs.symm)

/-- The interpolator gives the constant term of any coefficient list, not longer than the points, that fits
them (R96). -/
theorem linterp_eq_some_of_fit {pts : List Point} (h : DistinctX pts) {c0 : Byte} {cs : List Byte}
    (hlen : cs.length + 1 ≤ pts.length) (hfit : ∀ p ∈ pts, peval p.x c0 cs = p.y) :
    linterp pts = some c0 := by
  have := fact_irreducible_modulus
  have hpoly : coeffPoly (c0 :: cs) = pointsPoly pts :=
    coeffPoly_eq_pointsPoly h hlen fun p hp => by rw [← peval_eq_polynomialValue, hfit p hp]
  refine Option.map_injective residue_injective ?_
  rw [map_residue_linterp h, ← hpoly, eval_zero_coeffPoly_cons, Option.map_some]

/-- Settles O48: the polynomial through the points does not depend on their order, nor does a fault. -/
theorem interpolationIgnoresTheOrderOfPoints : Obligations.InterpolationIgnoresTheOrderOfPoints := by
  unfold Obligations.InterpolationIgnoresTheOrderOfPoints
  intro pts pts' hperm
  have hdistinct : DistinctX pts ↔ DistinctX pts' := (hperm.map Point.x).nodup_iff
  by_cases h : DistinctX pts
  · have := fact_irreducible_modulus
    refine Option.map_injective residue_injective ?_
    rw [map_residue_linterp h, map_residue_linterp (hdistinct.1 h), pointsPoly, pointsPoly,
      List.toFinset_eq_of_perm _ _ hperm]
  · rw [(linterp_eq_none_iff pts).2 h, (linterp_eq_none_iff pts').2 (mt hdistinct.2 h)]

/-- The interpolating polynomial in the form the evaluator takes it: the constant term apart. -/
theorem exists_peval_fit {p0 : Point} {ps : List Point} (h : DistinctX (p0 :: ps)) :
    ∃ c0 cs, cs.length = ps.length ∧ (∀ p ∈ p0 :: ps, peval p.x c0 cs = p.y) ∧
      ∀ d0 ds, ds.length = ps.length → (∀ p ∈ p0 :: ps, peval p.x d0 ds = p.y) →
        d0 = c0 ∧ ds = cs := by
  obtain ⟨fit, ⟨hlen, hfit⟩, hunique⟩ := existsUnique_coefficients h
  obtain ⟨c0, cs, rfl⟩ := List.exists_cons_of_length_eq_add_one hlen
  simp only [peval_eq_polynomialValue]
  exact ⟨c0, cs, Nat.succ_inj.1 hlen, hfit, fun d0 ds hds hfit' =>
    List.cons.inj (hunique (d0 :: ds) ⟨congrArg Nat.succ hds, hfit'⟩)⟩

/-- Settles O49: the interpolating polynomial is unique, and the interpolator gives its value at 0. -/
theorem interpolationRecoversTheConstantTerm : Obligations.InterpolationRecoversTheConstantTerm := by
  unfold Obligations.InterpolationRecoversTheConstantTerm
  refine ⟨fun p0 ps h => ?_, fun c0 cs xs hxs hlen => ?_⟩
  · obtain ⟨c0, cs, hlen, hfit, hunique⟩ := exists_peval_fit h
    exact ⟨c0, cs, hlen, hfit, linterp_eq_some_of_fit h (Nat.succ_le_succ hlen.le) hfit, hunique⟩
  · have hx : DistinctX (xs.map fun x => ⟨x, peval x c0 cs⟩) := by
      simpa [DistinctX, Function.comp_def] using hxs
    exact linterp_eq_some_of_fit hx (by simpa using hlen) (by simp)

end Sys2Proof.Machine

/-! ### LINTERP and the interpolator's corner cases (R89, R94) -/

namespace Sys2Proof.Machine

theorem distinctX_singleton (p : Point) : DistinctX [p] := List.nodup_singleton p.x

theorem linterp_singleton (p : Point) : linterp [p] = some p.y :=
  linterp_eq_some_of_fit (distinctX_singleton p) (cs := []) le_rfl (by simp)

/-- The polynomial through the points has there the value of the point at 0, which is its constant term. -/
theorem linterp_of_mem_of_x_eq_zero {pts : List Point} (h : DistinctX pts) {p : Point} (hp : p ∈ pts)
    (hx : p.x = 0x00) : linterp pts = some p.y := by
  cases pts with
  | nil => cases hp
  | cons p0 ps =>
    obtain ⟨c0, cs, hlen, hfit, -⟩ := exists_peval_fit h
    rw [linterp_eq_some_of_fit h (Nat.succ_le_succ hlen.le) hfit, ← hfit p hp, hx, peval_at_zero]

/-- Values of `48 + 1d·x + a7·x^2`, position 0 of P2, at three or more distinct x. -/
theorem linterp_of_fit_hello {pts : List Point} (h : DistinctX pts) (hlen : 3 ≤ pts.length)
    (hfit : ∀ p ∈ pts, peval p.x 0x48 [0x1d, 0xa7] = p.y) : linterp pts = some 0x48 :=
  linterp_eq_some_of_fit (cs := [0x1d, 0xa7]) h hlen hfit

/-- Settles O47: the concrete points lie on the line `07 + e2·x` or on the polynomial of P2, or two of them
share x. -/
theorem interpolatorCornerCases : Obligations.InterpolatorCornerCases := by
  unfold Obligations.InterpolatorCornerCases
  refine ⟨linterp_singleton, fun pts p h hp hx => linterp_of_mem_of_x_eq_zero h hp hx,
    linterp_singleton _, ?_, ?_, ?_, ?_, ?_, ?_, ?_⟩
  · exact linterp_eq_some_of_fit (cs := [0xe2]) (by unfold DistinctX; decide) le_rfl (by decide +kernel)
  · exact linterp_of_fit_hello (by unfold DistinctX; decide) (by decide) (by decide +kernel)
  iterate 3
    · exact (linterp_eq_none_iff _).2 (by unfold DistinctX; decide)
  iterate 2
    · exact linterp_of_fit_hello (by unfold DistinctX; decide) (by decide) (by decide +kernel)

/-- A frame of LINTERP has a nonzero count after its opcode, then as many points (R50, R57). -/
theorem answer_linterp_of_bad_count {m : Byte} {rest : List Byte}
    (h : m = 0x00 ∨ rest.length ≠ 2 * m.toNat) :
    answer (0x05 :: m :: rest) = .fault .badLength := by
  rw [answer_eq_fault_iff (by decide), decode_cons_eq_badLength_iff]
  refine .inr (.inr ⟨rfl, .inr ⟨m, rest, rfl, h.imp_right fun hlen => ?_⟩⟩)
  simpa using hlen

/-- Settles O44: on distinct x LINTERP answers the constant term of the interpolating polynomial, on equal x
the fault, and its frames are those whose count byte is the number of points. -/
theorem linterpAnswersTheValueAtZero : Obligations.LinterpAnswersTheValueAtZero := by
  unfold Obligations.LinterpAnswersTheValueAtZero
  refine ⟨fun p0 ps s h => ?_, fun p0 ps s h => execLinterp_of_none ((linterp_eq_none_iff _).2 h) s,
    fun p0 ps hlen => decode_encode (wellFormed_linterp_iff.2 (Nat.succ_le_succ hlen)), rfl,
    fun m rest => answer_linterp_of_bad_count, ?_⟩
  · obtain ⟨c0, cs, hlen, hfit, -⟩ := exists_peval_fit h
    have hvalue := linterp_eq_some_of_fit h (Nat.succ_le_succ hlen.le) hfit
    exact ⟨c0, cs, hlen, hfit, by rw [peval_at_zero]; exact execLinterp_of_some hvalue s⟩
  · have hvalue : linterp [⟨0x01, 0xf2⟩, ⟨0x03, 0x62⟩, ⟨0x05, 0x18⟩] = some 0x48 :=
      linterp_of_fit_hello (by unfold DistinctX; decide) (by decide) (by decide +kernel)
    have hanswer := answer_encode (i := .linterp ⟨0x01, 0xf2⟩ [⟨0x03, 0x62⟩, ⟨0x05, 0x18⟩]) rfl
    rw [commandResponse, hvalue] at hanswer
    exact congrArg Response.bytes hanswer

end Sys2Proof.Machine

/-! ### Commands sent to an idle engine (R106, R113, R116) -/

namespace Sys2Proof.Machine

/-- The state after commands that were all answered OK, with their results in order. -/
def State.respondAll (s : State) (ys : List Byte) : State :=
  { s with responses := s.responses ++ ys.map Response.ok }

@[simp] theorem State.respondAll_inputs (s : State) (ys : List Byte) :
    (s.respondAll ys).inputs = s.inputs := rfl

@[simp] theorem State.respondAll_responses (s : State) (ys : List Byte) :
    (s.respondAll ys).responses = s.responses ++ ys.map Response.ok := rfl

@[simp] theorem State.respondAll_nil (s : State) : s.respondAll [] = s := by
  simp [State.respondAll]

theorem State.respondAll_cons (s : State) (y : Byte) (ys : List Byte) :
    s.respondAll (y :: ys) = (s.respond (.ok y)).respondAll ys := by
  simp [State.respondAll, State.respond]

theorem State.respondAll_append (s : State) (ys zs : List Byte) :
    s.respondAll (ys ++ zs) = (s.respondAll ys).respondAll zs := by
  simp [State.respondAll]

theorem State.isFault_of_mem_respondAll (s : State) (ys : List Byte) :
    ∀ r ∈ (s.respondAll ys).responses.drop s.responses.length, r.isFault = false := by
  simp [Response.isFault]

/-- An idle engine takes the frame sent and answers it. -/
theorem send_of_idle {s : State} (hs : s.inputs = []) (f : Frame) :
    send f s = (s.respond (answer f), some (answer f)) := by
  have hport : (s.present f).inputs = [.frame f] := by simp [hs]
  have hstep : step (s.present f) = .next (s.respond (answer f)) := by
    rw [step_of_frame_eq_respond hport, State.present, State.setInputs_setInputs, ← hs,
      State.setInputs_self]
  simp [send, hstep]

/-- Frames that all get the answer OK are all sent, and leave an idle engine idle. -/
theorem sendAll_of_idle {s : State} (hs : s.inputs = []) {fs : List Frame} {ys : List Byte}
    (hanswers : fs.map answer = ys.map Response.ok) : sendAll fs s = (s.respondAll ys, some ys) := by
  induction fs generalizing s ys with
  | nil =>
    obtain rfl : ys = [] := by simpa using hanswers.symm
    simp
  | cons f fs ih =>
    cases ys with
    | nil => cases hanswers
    | cons y ys =>
      obtain ⟨hf, hfs⟩ := List.cons.inj hanswers
      rw [State.respondAll_cons]
      exact sendAll_of_ok (by rw [send_of_idle hs, hf]) (ih (s := s.respond (.ok y)) hs hfs)

/-- One PEVAL for each of several x-coordinates gives the polynomial's values there. -/
theorem sendAll_peval {s : State} (hs : s.inputs = []) (xs : List Byte) (c0 : Byte) {cs : List Byte}
    (hlen : cs.length ≤ 254) :
    sendAll (xs.map fun x => encode (.peval x c0 cs)) s =
      (s.respondAll (xs.map fun x => peval x c0 cs), some (xs.map fun x => peval x c0 cs)) := by
  refine sendAll_of_idle hs ?_
  rw [List.map_map, List.map_map]
  exact List.map_congr_left fun x _ => answer_encode (wellFormed_peval_iff.2 (Nat.succ_le_succ hlen))

end Sys2Proof.Machine

/-! ### split (R102 to R108) -/

namespace Sys2Proof.Machine

/-! #### Validation (R104) -/

theorem split_of_check_eq_some {secret : List Byte} {n t : Int} {e : HostError}
    (h : splitCheck secret n t = some e) (rng : Nat → Byte) (s : State) :
    split secret n t rng s = ⟨s, 0, .error e⟩ := by
  simp [split, h]

theorem split_of_check_eq_none {secret : List Byte} {n t : Int}
    (h : splitCheck secret n t = none) (rng : Nat → Byte) (s : State) :
    split secret n t rng s = splitAt (splitXs n.toNat) secret t.toNat rng s := by
  simp [split, h]

theorem splitCheck_eq_none_iff {secret : List Byte} {n t : Int} :
    splitCheck secret n t = none ↔ 2 ≤ t ∧ t ≤ n ∧ n ≤ 255 ∧ secret ≠ [] := by
  unfold splitCheck
  split_ifs <;> simp_all <;> omega

/-! #### The shares (R105 to R107) -/

/-- The payload of the share at x, the draws of its first byte position beginning at number `d`. -/
def sharePayload (rng : Nat → Byte) (t d : Nat) (secret : List Byte) (x : Byte) : List Byte :=
  secret.mapIdx fun i c0 => peval x c0 (drawCoefficients rng (d + i * (t - 1)) t)

@[simp] theorem sharePayload_length (rng : Nat → Byte) (t d : Nat) (secret : List Byte) (x : Byte) :
    (sharePayload rng t d secret x).length = secret.length := by
  simp [sharePayload]

theorem sharePayload_cons (rng : Nat → Byte) (t d : Nat) (c0 : Byte) (secret : List Byte) (x : Byte) :
    sharePayload rng t d (c0 :: secret) x =
      peval x c0 (drawCoefficients rng d t) :: sharePayload rng t (d + (t - 1)) secret x := by
  simp [sharePayload, List.mapIdx_cons, Nat.succ_mul, Nat.add_comm (_ * _), Nat.add_assoc]

/-- The loop appends to each share the payload at its x, and the engine answers n values a byte position. -/
theorem splitLoop_of_idle (xs : List Byte) {t : Nat} (ht : t ≤ 255) (rng : Nat → Byte)
    (secret : List Byte) (share : Byte → Share) (d : Nat) {s : State} (hs : s.inputs = []) :
    ∃ ys : List Byte, ys.length = xs.length * secret.length ∧
      splitLoop xs t rng secret (xs.map share) d s =
        ⟨s.respondAll ys, d + (t - 1) * secret.length,
          .ok (xs.map fun x => share x ++ sharePayload rng t d secret x)⟩ := by
  induction secret generalizing share d s with
  | nil => exact ⟨[], by simp, by simp [splitLoop, sharePayload]⟩
  | cons c0 secret ih =>
    have hsend := sendAll_peval hs xs c0 (cs := drawCoefficients rng d t) (by simp; omega)
    obtain ⟨ys, hlen, hloop⟩ := ih (fun x => share x ++ [peval x c0 (drawCoefficients rng d t)])
      (d + (t - 1)) (s := s.respondAll (xs.map fun x => peval x c0 (drawCoefficients rng d t))) hs
    refine ⟨(xs.map fun x => peval x c0 (drawCoefficients rng d t)) ++ ys, ?_, ?_⟩
    · rw [List.length_append, List.length_map, hlen, List.length_cons, Nat.mul_succ, Nat.add_comm]
    · simp only [splitLoop, hsend, List.zipWith_map, List.zipWith_self]
      rw [hloop, ← State.respondAll_append]
      simp [sharePayload_cons, Nat.mul_succ, Nat.add_comm (_ * _), Nat.add_assoc]

/-- The share at x: its index byte and its payload (R99, R106). -/
def shareAt (rng : Nat → Byte) (t : Nat) (secret : List Byte) (x : Byte) : Share :=
  x :: sharePayload rng t 0 secret x

@[simp] theorem shareAt_length (rng : Nat → Byte) (t : Nat) (secret : List Byte) (x : Byte) :
    (shareAt rng t secret x).length = secret.length + 1 := by
  simp [shareAt]

@[simp] theorem shareIndex_shareAt (rng : Nat → Byte) (t : Nat) (secret : List Byte) (x : Byte) :
    shareIndex (shareAt rng t secret x) = x := rfl

theorem sharePoint_shareAt (rng : Nat → Byte) (t : Nat) (secret : List Byte) (x : Byte) {i : Nat}
    (hi : i < secret.length) : sharePoint i (shareAt rng t secret x) =
      ⟨x, peval x secret[i] (drawCoefficients rng (i * (t - 1)) t)⟩ := by
  simp [sharePoint, shareIndex, shareAt, byteAt, Nat.add_comm 1, sharePayload, hi]

/-- A split that passes its checks gives the shares at 1 to n. -/
theorem split_of_valid {secret : List Byte} {n t : Int} (ht : 2 ≤ t) (htn : t ≤ n) (hn : n ≤ 255)
    (hsecret : secret ≠ []) (rng : Nat → Byte) {s : State} (hs : s.inputs = []) :
    ∃ ys : List Byte, ys.length = n.toNat * secret.length ∧
      split secret n t rng s = ⟨s.respondAll ys, (t.toNat - 1) * secret.length,
        .ok ((splitXs n.toNat).map (shareAt rng t.toNat secret))⟩ := by
  obtain ⟨ys, hlen, hloop⟩ := splitLoop_of_idle (splitXs n.toNat) (t := t.toNat) (by omega) rng secret
    (fun x => [x]) 0 hs
  refine ⟨ys, by rw [hlen, splitXs_length], ?_⟩
  rw [split_of_check_eq_none (splitCheck_eq_none_iff.2 ⟨ht, htn, hn, hsecret⟩), splitAt, hloop,
    Nat.zero_add]
  rfl

/-- Settles O50: each test that fails decides the error, and where none does the engine gives the shares. -/
theorem splitValidatesInOrder : Obligations.SplitValidatesInOrder := by
  unfold Obligations.SplitValidatesInOrder
  intro secret n t rng s
  refine ⟨fun hn => ?_, fun hn ht => ?_, fun hn ht hlt => ?_, fun hn ht hle hsecret => ?_,
    fun hs ht htn hn hsecret => ?_⟩
  · exact split_of_check_eq_some (if_pos (by omega)) rng s
  · refine split_of_check_eq_some ?_ rng s
    rw [splitCheck, if_neg (by omega), if_pos (by omega)]
  · refine split_of_check_eq_some ?_ rng s
    rw [splitCheck, if_neg (by omega), if_neg (by omega), if_pos hlt]
  · refine split_of_check_eq_some ?_ rng s
    rw [splitCheck, if_neg (by omega), if_neg (by omega), if_neg (by omega), if_pos (by rw [hsecret]; rfl)]
  · obtain ⟨ys, -, hsplit⟩ := split_of_valid ht htn hn hsecret rng hs
    exact ⟨_, congrArg HostRun.result hsplit⟩

/-- Settles O51: the loop's shares at 1 to n, its draws and its answers. -/
theorem splitGivesThePolynomialValues : Obligations.SplitGivesThePolynomialValues := by
  unfold Obligations.SplitGivesThePolynomialValues
  intro secret n t rng s hs ht htn hn hsecret
  obtain ⟨ys, hlen, hsplit⟩ := split_of_valid (n := n) (t := t) (by omega) (by omega) (by omega)
    hsecret rng hs
  rw [hsplit]
  refine ⟨?_, rfl, hs, by simp [hlen]⟩
  simp [splitXs, shareAt, sharePayload, drawCoefficients, Function.comp_def]

end Sys2Proof.Machine

/-! ### combine (R110 to R114) -/

namespace Sys2Proof.Machine

/-! #### Validation (R111, R114) -/

theorem sameLengths_iff {shares : List Share} :
    sameLengths shares = true ↔ ∀ a ∈ shares, a.length = commonLength shares := by
  cases shares <;> simp [sameLengths, commonLength]

theorem commonLength_eq {shares : List Share} {L : Nat} (hne : shares ≠ [])
    (hlen : ∀ a ∈ shares, a.length = L) : commonLength shares = L := by
  cases shares with
  | nil => exact absurd rfl hne
  | cons a rest => exact hlen a List.mem_cons_self

theorem sameLengths_of_forall {shares : List Share} {L : Nat} (hlen : ∀ a ∈ shares, a.length = L) :
    sameLengths shares = true :=
  sameLengths_iff.2 fun a ha => by rw [hlen a ha, commonLength_eq (List.ne_nil_of_mem ha) hlen]

theorem hasDuplicateIndex_iff {shares : List Share} :
    hasDuplicateIndex shares = true ↔ ¬ (shares.map shareIndex).Nodup := by
  induction shares with
  | nil => simp [hasDuplicateIndex]
  | cons a rest ih =>
    rw [hasDuplicateIndex, Bool.or_eq_true, ih, List.map_cons, List.nodup_cons]
    simp [or_iff_not_imp_left]

/-- The share sets combine interpolates: 2 to 255 shares of common length L + 1, with a payload, and of
distinct index bytes (R111, R114). -/
structure Combinable (L : Nat) (shares : List Share) : Prop where
  one_le : 1 ≤ L
  two_le_length : 2 ≤ shares.length
  length_le : shares.length ≤ 255
  length_eq : ∀ a ∈ shares, a.length = L + 1
  nodup : (shares.map shareIndex).Nodup

theorem Combinable.ne_nil {L : Nat} {shares : List Share} (h : Combinable L shares) : shares ≠ [] :=
  List.ne_nil_of_length_pos (Nat.zero_lt_two.trans_le h.two_le_length)

theorem Combinable.commonLength_eq {L : Nat} {shares : List Share} (h : Combinable L shares) :
    commonLength shares = L + 1 :=
  Machine.commonLength_eq h.ne_nil h.length_eq

theorem combineCheck_eq_ok_iff {shares : List Share} :
    combineCheck shares = .ok () ↔ ∃ L, Combinable L shares := by
  constructor
  · unfold combineCheck
    split_ifs with hsame hshort hdup hfew hmany
    iterate 5
      · nofun
    intro _
    have hsame' := sameLengths_iff.1 (by simpa using hsame)
    exact ⟨commonLength shares - 1, by omega, by omega, by omega,
      fun a ha => by rw [hsame' a ha]; omega, not_not.1 (mt hasDuplicateIndex_iff.2 hdup)⟩
  · rintro ⟨L, h⟩
    have hcommon := h.commonLength_eq
    obtain ⟨hL, htwo, hmany, hlen, hnodup⟩ := h
    rw [combineCheck, if_neg (by simp [sameLengths_of_forall hlen]), if_neg (by omega),
      if_neg (by simp [hasDuplicateIndex_iff, hnodup]), if_neg (by omega), if_neg (by omega)]

theorem combineCheck_ne_broken (shares : List Share) : combineCheck shares ≠ .broken := by
  unfold combineCheck
  split_ifs <;> nofun

theorem combine_of_check_eq_error {shares : List Share} {e : HostError}
    (h : combineCheck shares = .error e) (s : State) : combine shares s = ⟨s, 0, .error e⟩ := by
  simp [combine, h]

theorem combine_of_check_eq_refused {shares : List Share} {r : HostRefusal}
    (h : combineCheck shares = .refused r) (s : State) : combine shares s = ⟨s, 0, .refused r⟩ := by
  simp [combine, h]

theorem combineCheck_of_duplicate {shares : List Share} {L : Nat} (hL : 2 ≤ L)
    (hlen : ∀ a ∈ shares, a.length = L) (hdup : ¬ (shares.map shareIndex).Nodup) :
    combineCheck shares = .error .duplicateShares := by
  have hne : shares ≠ [] := by
    rintro rfl
    exact hdup List.nodup_nil
  have hcommon := commonLength_eq hne hlen
  rw [combineCheck, if_neg (by simp [sameLengths_of_forall hlen]), if_neg (by omega),
    if_pos (hasDuplicateIndex_iff.2 hdup)]

theorem combineCheck_of_few {shares : List Share} (hfew : shares.length < 2) :
    combineCheck shares = .error .shareCountMismatch := by
  match shares, hfew with
  | [], _ => rfl
  | [a], _ => simp [combineCheck, sameLengths, hasDuplicateIndex]

/-- Settles O52: each check is made where the ones before it pass, and none sends a command. -/
theorem combineValidatesInOrder : Obligations.CombineValidatesInOrder := by
  unfold Obligations.CombineValidatesInOrder
  intro shares s
  refine ⟨fun ⟨a, ha, b, hb, hne⟩ => combine_of_check_eq_error ?_ s, fun L hL hlen hdup =>
    combine_of_check_eq_error (combineCheck_of_duplicate hL hlen hdup) s, fun hfew =>
    combine_of_check_eq_error (combineCheck_of_few hfew) s⟩
  have hsame : ¬ sameLengths shares = true := fun h =>
    hne ((sameLengths_iff.1 h a ha).trans (sameLengths_iff.1 h b hb).symm)
  rw [combineCheck, if_pos (by simpa using hsame)]

/-! #### Interpolation (R113) -/

theorem Combinable.distinctX {L : Nat} {shares : List Share} (h : Combinable L shares) (i : Nat) :
    DistinctX (shares.map (sharePoint i)) := by
  rw [DistinctX, List.map_map]
  exact h.nodup

/-- LINTERP on a byte position of shares a frame can hold answers what the interpolator gives. -/
theorem Combinable.answer_combineFrame {L : Nat} {shares : List Share} (h : Combinable L shares) {i : Nat}
    {v : Byte} (hv : linterp (shares.map (sharePoint i)) = some v) :
    answer (combineFrame shares i) = .ok v := by
  cases shares with
  | nil => exact absurd rfl h.ne_nil
  | cons a rest =>
    have hcount : (rest.map (sharePoint i)).length + 1 ≤ 255 := by simpa using h.length_le
    rw [combineFrame, answer_encode (wellFormed_linterp_iff.2 hcount), commandResponse, ← List.map_cons, hv]
    rfl

/-- Every byte position of shares that pass the checks has its interpolated byte. -/
theorem Combinable.exists_secret {L : Nat} {shares : List Share} (h : Combinable L shares) :
    ∃ secret : List Byte, secret.length = L ∧
      ∀ i (hi : i < secret.length), linterp (shares.map (sharePoint i)) = some secret[i] := by
  have hsome (i : Nat) : ∃ v, linterp (shares.map (sharePoint i)) = some v :=
    Option.ne_none_iff_exists'.1 fun hnone => (linterp_eq_none_iff _).1 hnone (h.distinctX i)
  choose byte hbyte using hsome
  exact ⟨(List.range L).map byte, by simp, fun i hi => by simpa using hbyte i⟩

/-- On an idle engine combine returns the interpolated bytes, and the engine has answered these. -/
theorem Combinable.combine_eq {L : Nat} {shares : List Share} (h : Combinable L shares)
    {secret : List Byte} (hlen : secret.length = L)
    (hsecret : ∀ i (hi : i < secret.length), linterp (shares.map (sharePoint i)) = some secret[i])
    {s : State} (hs : s.inputs = []) : combine shares s = ⟨s.respondAll secret, 0, .ok secret⟩ := by
  have hanswers : ((List.range L).map (combineFrame shares)).map answer = secret.map Response.ok := by
    refine List.ext_getElem (by simp [hlen]) fun i _ hi => ?_
    rw [List.length_map] at hi
    simpa using h.answer_combineFrame (hsecret i hi)
  rw [combine, combineCheck_eq_ok_iff.2 ⟨L, h⟩]
  simp [h.commonLength_eq, sendAll_of_idle hs hanswers]

/-- Settles O53: the frames are answered with the bytes the interpolator gives. -/
theorem combineInterpolatesEachPosition : Obligations.CombineInterpolatesEachPosition := by
  unfold Obligations.CombineInterpolatesEachPosition
  intro shares L s hs hL htwo hmany hlen hnodup
  have h : Combinable L shares := ⟨hL, htwo, hmany, hlen, hnodup⟩
  obtain ⟨secret, rfl, hsecret⟩ := h.exists_secret
  have hcombine := h.combine_eq rfl hsecret hs
  refine ⟨secret, rfl, congrArg HostRun.result hcombine, ?_, fun i hi => ?_⟩
  · rw [hcombine, State.respondAll, hs]
  · rw [byteAt, List.getD_eq_getElem _ _ hi]
    exact hsecret i hi

/-- Settles O54: the two refusals stand among the checks, and the point at x = 0 is the polynomial's value
there. -/
theorem combineRefusesMeaninglessShareSets : Obligations.CombineRefusesMeaninglessShareSets := by
  unfold Obligations.CombineRefusesMeaninglessShareSets
  refine ⟨fun shares L s htwo hL hlen => ?_, fun shares L s hcount hL hlen hnodup => ?_,
    fun shares share L s hs hL htwo hmany hlen hnodup hmem hzero => ?_⟩
  · have hcommon := commonLength_eq (List.ne_nil_of_length_pos (Nat.zero_lt_two.trans_le htwo)) hlen
    refine combine_of_check_eq_refused ?_ s
    rw [combineCheck, if_neg (by simp [sameLengths_of_forall hlen]), if_pos (by omega)]
  · have hcommon := commonLength_eq (List.ne_nil_of_length_pos (by omega)) hlen
    refine combine_of_check_eq_refused ?_ s
    rw [combineCheck, if_neg (by simp [sameLengths_of_forall hlen]), if_neg (by omega),
      if_neg fun hdup => hasDuplicateIndex_iff.1 hdup hnodup, if_neg (by omega), if_pos (by omega)]
  · have h : Combinable (L - 1) shares :=
      ⟨by omega, htwo, hmany, fun a ha => by rw [hlen a ha]; omega, hnodup⟩
    have hpayload : (share.drop 1).length = L - 1 := by rw [List.length_drop, hlen share hmem]
    refine congrArg HostRun.result (h.combine_eq hpayload (fun i hi => ?_) hs)
    rw [linterp_of_mem_of_x_eq_zero (h.distinctX i) (List.mem_map_of_mem hmem) hzero]
    have hlt : i + 1 < share.length := by
      rw [List.length_drop] at hi
      omega
    simp [sharePoint, byteAt, Nat.add_comm 1, hlt]

end Sys2Proof.Machine

/-! ### Every host sequence's outcome (R115, R116) -/

namespace Sys2Proof.Machine

/-- What combine returns and the responses it causes are the same on every idle engine, and are no fault. -/
theorem exists_combine_eq (shares : List Share) : ∃ (ys : List Byte) (result : HostResult (List Byte)),
    result ≠ .broken ∧
      ∀ s : State, s.inputs = [] → combine shares s = ⟨s.respondAll ys, 0, result⟩ := by
  cases hcheck : combineCheck shares with
  | ok _ =>
    obtain ⟨L, h⟩ := combineCheck_eq_ok_iff.1 hcheck
    obtain ⟨secret, hlen, hsecret⟩ := h.exists_secret
    exact ⟨secret, .ok secret, nofun, fun s hs => h.combine_eq hlen hsecret hs⟩
  | error e => exact ⟨[], .error e, nofun, fun s _ => by simp [combine_of_check_eq_error hcheck]⟩
  | refused r => exact ⟨[], .refused r, nofun, fun s _ => by simp [combine_of_check_eq_refused hcheck]⟩
  | broken => exact absurd hcheck (combineCheck_ne_broken shares)

/-- What split returns and the responses it causes on an idle engine. -/
theorem exists_split_eq (secret : List Byte) (n t : Int) (rng : Nat → Byte) {s : State}
    (hs : s.inputs = []) : ∃ (ys : List Byte) (draws : Nat) (result : HostResult (List Share)),
      result ≠ .broken ∧ split secret n t rng s = ⟨s.respondAll ys, draws, result⟩ := by
  cases hcheck : splitCheck secret n t with
  | some e => exact ⟨[], 0, .error e, nofun, by simp [split_of_check_eq_some hcheck]⟩
  | none =>
    obtain ⟨ht, htn, hn, hsecret⟩ := splitCheck_eq_none_iff.1 hcheck
    obtain ⟨ys, -, hsplit⟩ := split_of_valid ht htn hn hsecret rng hs
    exact ⟨ys, _, .ok _, nofun, hsplit⟩

/-- Settles O55: neither sequence ends broken, and all responses it adds are OK. -/
theorem hostSequencesNeverMeetAFault : Obligations.HostSequencesNeverMeetAFault := by
  unfold Obligations.HostSequencesNeverMeetAFault
  refine ⟨fun secret n t rng s hs => ?_, fun shares s hs => ?_⟩
  · obtain ⟨ys, draws, result, hresult, hsplit⟩ := exists_split_eq secret n t rng hs
    rw [hsplit]
    exact ⟨hresult, s.isFault_of_mem_respondAll ys⟩
  · obtain ⟨ys, result, hresult, hcombine⟩ := exists_combine_eq shares
    rw [hcombine s hs]
    exact ⟨hresult, s.isFault_of_mem_respondAll ys⟩

theorem combine_result_eq (shares : List Share) {s s' : State} (hs : s.inputs = [])
    (hs' : s'.inputs = []) : (combine shares s).result = (combine shares s').result := by
  obtain ⟨ys, result, -, hcombine⟩ := exists_combine_eq shares
  rw [hcombine s hs, hcombine s' hs']

end Sys2Proof.Machine

/-! ### Thresholds (R109, R115) -/

namespace Sys2Proof.Machine

/-- With the point at 0 that spells the secret there are as many points as coefficients (R109). -/
theorem existsUnique_fit_with_secret {pts : List Point} (h : DistinctX pts) (hx : ∀ p ∈ pts, p.x ≠ 0x00)
    (secret : Byte) : ∃ cs : List Byte, cs.length = pts.length ∧
      (∀ p ∈ pts, peval p.x secret cs = p.y) ∧
      ∀ ds, ds.length = pts.length → (∀ p ∈ pts, peval p.x secret ds = p.y) → ds = cs := by
  have hdistinct : DistinctX (⟨0x00, secret⟩ :: pts) := by
    refine List.nodup_cons.2 ⟨fun hmem => ?_, h⟩
    obtain ⟨p, hp, hzero⟩ := List.mem_map.1 hmem
    exact hx p hp hzero
  obtain ⟨c0, cs, hlen, hfit, hunique⟩ := exists_peval_fit hdistinct
  obtain ⟨hc0, hpts⟩ := List.forall_mem_cons.1 hfit
  rw [peval_at_zero] at hc0
  subst hc0
  exact ⟨cs, hlen, hpts, fun ds hds hds' =>
    (hunique c0 ds hds (List.forall_mem_cons.2 ⟨peval_at_zero c0 ds, hds'⟩)).2⟩

/-- Settles O57: the point at 0 makes the secret the constant term of the one polynomial through all points. -/
theorem fewerThanThresholdPointsFitEverySecret : Obligations.FewerThanThresholdPointsFitEverySecret := by
  unfold Obligations.FewerThanThresholdPointsFitEverySecret
  exact fun _ secret h hx => existsUnique_fit_with_secret h hx secret

/-- The interpolated bytes are the ones combine returns. -/
theorem Combinable.linterp_of_combine {L : Nat} {shares : List Share} (h : Combinable L shares)
    {secret : List Byte} {s : State} (hs : s.inputs = []) (hresult : (combine shares s).result = .ok secret) :
    ∀ i (hi : i < secret.length), linterp (shares.map (sharePoint i)) = some secret[i] := by
  obtain ⟨bytes, hlen, hbytes⟩ := h.exists_secret
  rw [h.combine_eq hlen hbytes hs, HostResult.ok.injEq] at hresult
  rw [← hresult]
  exact hbytes

/-- Shares of one split at distinct x pass combine's checks. -/
theorem combinable_shareAt (rng : Nat → Byte) (t : Nat) {secret xs : List Byte} (hsecret : secret ≠ [])
    (htwo : 2 ≤ xs.length) (hmany : xs.length ≤ 255) (hxs : xs.Nodup) :
    Combinable secret.length (xs.map (shareAt rng t secret)) where
  one_le := List.length_pos_iff.2 hsecret
  two_le_length := by rwa [List.length_map]
  length_le := by rwa [List.length_map]
  length_eq := by simp
  nodup := by simpa [Function.comp_def] using hxs

/-- The points of a byte position lie on the polynomial of that position's draws. -/
theorem peval_of_mem_sharePoints {rng : Nat → Byte} {t : Nat} {secret xs : List Byte} {i : Nat}
    (hi : i < secret.length) {p : Point}
    (hp : p ∈ (xs.map (shareAt rng t secret)).map (sharePoint i)) :
    peval p.x secret[i] (drawCoefficients rng (i * (t - 1)) t) = p.y := by
  rw [List.map_map] at hp
  obtain ⟨x, -, rfl⟩ := List.mem_map.1 hp
  rw [Function.comp_apply, sharePoint_shareAt rng t secret x hi]

/-- Shares chosen from those of a split are the shares at their index bytes. -/
theorem map_shareAt_map_shareIndex {rng : Nat → Byte} {t : Nat} {secret xs : List Byte}
    {chosen : List Share} (hmem : ∀ a ∈ chosen, a ∈ xs.map (shareAt rng t secret)) :
    (chosen.map shareIndex).map (shareAt rng t secret) = chosen ∧ chosen.map shareIndex ⊆ xs := by
  have hshare (a : Share) (ha : a ∈ chosen) :
      shareAt rng t secret (shareIndex a) = a ∧ shareIndex a ∈ xs := by
    obtain ⟨x, hx, rfl⟩ := List.mem_map.1 (hmem a ha)
    exact ⟨rfl, hx⟩
  constructor
  · rw [List.map_map]
    exact (List.map_congr_left fun a ha => (hshare a ha).1).trans (List.map_id _)
  · exact List.forall_mem_map.2 fun a ha => (hshare a ha).2

/-- As many shares of one split as its threshold are combined to its secret (R115). -/
theorem combine_shareAt (rng : Nat → Byte) {t : Nat} {secret xs : List Byte} (hsecret : secret ≠ [])
    (ht : 2 ≤ t) (htxs : t ≤ xs.length) (hmany : xs.length ≤ 255) (hxs : xs.Nodup) {s : State}
    (hs : s.inputs = []) : (combine (xs.map (shareAt rng t secret)) s).result = .ok secret := by
  have h := combinable_shareAt rng t hsecret (ht.trans htxs) hmany hxs
  refine congrArg HostRun.result (h.combine_eq rfl (fun i hi => ?_) hs)
  refine linterp_eq_some_of_fit (h.distinctX i) ?_ fun p hp => peval_of_mem_sharePoints hi hp
  simp only [drawCoefficients_length, List.length_map]
  omega

/-- Settles O56: distinct shares of one split are those at distinct x, and their polynomials have fewer
coefficients than the threshold asks points. -/
theorem splitThenCombineReturnsTheSecret : Obligations.SplitThenCombineReturnsTheSecret := by
  unfold Obligations.SplitThenCombineReturnsTheSecret
  refine ⟨fun secret n t rng s s' shares chosen hs hs' hsplit hnodup hmem hcount => ?_,
    fun shares s s' => combine_result_eq shares⟩
  cases hcheck : splitCheck secret n t with
  | some e =>
    rw [split_of_check_eq_some hcheck] at hsplit
    cases hsplit
  | none =>
    obtain ⟨ht, htn, hn, hsecret⟩ := splitCheck_eq_none_iff.1 hcheck
    obtain ⟨ys, -, hvalid⟩ := split_of_valid ht htn hn hsecret rng hs
    rw [hvalid, HostResult.ok.injEq] at hsplit
    subst hsplit
    obtain ⟨hchosen, hsub⟩ := map_shareAt_map_shareIndex hmem
    rw [← hchosen] at hnodup hcount ⊢
    have hxs := hnodup.of_map _
    have hle := (hxs.subperm hsub).length_le
    rw [splitXs_length] at hle
    rw [List.length_map] at hcount
    exact combine_shareAt rng hsecret (by omega) (by omega) (by omega) hxs hs'

/-! #### Fewer points than coefficients -/

theorem peval_append_zero (x c0 : Byte) (cs : List Byte) :
    peval x c0 (cs ++ [0x00]) = peval x c0 cs := by
  induction cs generalizing c0 with
  | nil => rw [List.nil_append, peval_cons, peval_nil, gfMul_zero_left, gfAdd_zero_left, peval_nil]
  | cons c cs ih => rw [List.cons_append, peval_cons, ih, peval_cons]

/-- One point too few does not give the constant term of a polynomial whose top coefficient is not zero: with
the point at 0 the polynomial of lower degree would be the same one. -/
theorem linterp_ne_of_fewer_points {pts : List Point} (h : DistinctX pts) (hx : ∀ p ∈ pts, p.x ≠ 0x00)
    {c0 top : Byte} {cs : List Byte} (hlen : cs.length + 1 = pts.length) (htop : top ≠ 0x00)
    (hfit : ∀ p ∈ pts, peval p.x c0 (cs ++ [top]) = p.y) : linterp pts ≠ some c0 := by
  intro hvalue
  obtain ⟨fit, -, -, hunique⟩ := existsUnique_fit_with_secret h hx c0
  obtain ⟨p0, ps, rfl⟩ := List.exists_cons_of_length_eq_add_one hlen.symm
  obtain ⟨d0, ds, hds, hfitds, -⟩ := exists_peval_fit h
  rw [linterp_eq_some_of_fit h (Nat.succ_le_succ hds.le) hfitds, Option.some.injEq] at hvalue
  subst hvalue
  have hsame : cs ++ [top] = ds ++ [0x00] :=
    (hunique _ (by simpa using hlen) hfit).trans
      (hunique _ (by simpa using hds) fun p hp => by rw [peval_append_zero, hfitds p hp]).symm
  exact htop (List.cons.inj (List.append_inj_right' hsame rfl)).1

end Sys2Proof.Machine

/-! ### Round trips (R119) -/

namespace Sys2Proof.Machine

/-- The x-coordinate of the share at place j of split's list, counted from 0 (R105). -/
def splitX (j : Nat) : Byte := BitVec.ofNat 8 (j + 1)

theorem splitXs_eq_map_splitX (n : Nat) : splitXs n = (List.range n).map splitX := rfl

theorem toNat_splitX {j : Nat} (hj : j < 255) : (splitX j).toNat = j + 1 := by
  rw [splitX, BitVec.toNat_ofNat]
  omega

theorem splitX_ne_zero {j : Nat} (hj : j < 255) : splitX j ≠ 0x00 := by
  intro h
  have := toNat_splitX hj
  simp [h] at this

/-- Places of a list of n entries, each chosen once, are n at most. -/
theorem length_le_of_nodup_of_lt {places : List Nat} {n : Nat} (hnodup : places.Nodup)
    (hlt : ∀ j ∈ places, j < n) : places.length ≤ n := by
  simpa using (hnodup.subperm fun j hj => List.mem_range.2 (hlt j hj)).length_le

theorem nodup_map_splitX {places : List Nat} (hnodup : places.Nodup) (hlt : ∀ j ∈ places, j < 255) :
    (places.map splitX).Nodup := by
  refine hnodup.map_on fun i hi j hj heq => ?_
  have := congrArg BitVec.toNat heq
  rw [toNat_splitX (hlt i hi), toNat_splitX (hlt j hj)] at this
  exact Nat.succ.inj this

theorem filterMap_getElem?_splitXs (f : Byte → Share) {n : Nat} {places : List Nat}
    (hlt : ∀ j ∈ places, j < n) :
    (places.filterMap fun j => ((splitXs n).map f)[j]?) = (places.map splitX).map f := by
  rw [List.map_map, ← congrFun List.filterMap_eq_map places]
  exact List.filterMap_congr fun j hj => by simp [splitXs_eq_map_splitX, hlt j hj]

/-- A valid round trip has the result of combine on the shares at the chosen x, on an idle engine. -/
theorem roundTrip_eq_combine {secret : List Byte} {n t : Int} (ht : 2 ≤ t) (htn : t ≤ n) (hn : n ≤ 255)
    (hsecret : secret ≠ []) (rng : Nat → Byte) {places : List Nat} (hlt : ∀ j ∈ places, j < n.toNat)
    {s : State} (hs : s.inputs = []) : ∃ s' : State, s'.inputs = [] ∧
      (roundTrip secret n t rng places s).result =
        (combine ((places.map splitX).map (shareAt rng t.toNat secret)) s').result := by
  obtain ⟨ys, -, hsplit⟩ := split_of_valid ht htn hn hsecret rng hs
  refine ⟨s.respondAll ys, hs, ?_⟩
  rw [roundTrip_of_ok (congrArg HostRun.result hsplit), filterMap_getElem?_splitXs _ hlt, hsplit]

/-- Any t or more of the shares of a valid split, in any order, give the secret back. -/
theorem roundTrip_result_eq_ok {secret : List Byte} {n t : Int} (ht : 2 ≤ t) (htn : t ≤ n) (hn : n ≤ 255)
    (hsecret : secret ≠ []) (rng : Nat → Byte) {places : List Nat} (hnodup : places.Nodup)
    (hlt : ∀ j ∈ places, j < n.toNat) (hcount : t.toNat ≤ places.length) {s : State}
    (hs : s.inputs = []) : (roundTrip secret n t rng places s).result = .ok secret := by
  obtain ⟨s', hs', hresult⟩ := roundTrip_eq_combine ht htn hn hsecret rng hlt hs
  have hle := length_le_of_nodup_of_lt hnodup hlt
  have hxs := nodup_map_splitX hnodup fun j hj => (hlt j hj).trans_le (by omega)
  rw [hresult]
  exact combine_shareAt rng hsecret (by omega) (by simpa using hcount)
    (by rw [List.length_map]; omega) hxs hs'

/-! #### The HELLO scenario (R119 (e)) -/

theorem helloSecret_ne_nil : helloSecret ≠ [] := nofun

/-- Two of the five shares of HELLO pass combine's checks (R112). -/
theorem combinable_two_hello_shares (rng : Nat → Byte) {places : List Nat} (hnodup : places.Nodup)
    (hlt : ∀ j ∈ places, j < 5) (hcount : places.length = 2) :
    Combinable 5 ((places.map splitX).map (shareAt rng 3 helloSecret)) :=
  combinable_shareAt rng 3 helloSecret_ne_nil (by simp [hcount]) (by simp [hcount])
    (nodup_map_splitX hnodup fun j hj => (hlt j hj).trans (by decide))

theorem helloScenario_eq_combine (rng : Nat → Byte) {places : List Nat} (hlt : ∀ j ∈ places, j < 5)
    {s : State} (hs : s.inputs = []) : ∃ s' : State, s'.inputs = [] ∧
      (helloScenario rng places s).result =
        (combine ((places.map splitX).map (shareAt rng 3 helloSecret)) s').result :=
  roundTrip_eq_combine (n := 5) (t := 3) (by decide) (by decide) (by decide) helloSecret_ne_nil rng hlt hs

/-- Where every draw is 0x01 the polynomial of the letter H is `48 + x + x^2`, and two of its points lie on a
line with another value at 0. -/
theorem combine_two_hello_shares_ne {places : List Nat} (hnodup : places.Nodup)
    (hlt : ∀ j ∈ places, j < 5) (hcount : places.length = 2) {s : State} (hs : s.inputs = []) :
    (combine ((places.map splitX).map (shareAt (fun _ => 0x01) 3 helloSecret)) s).result ≠
      .ok helloSecret := by
  intro hresult
  have h := combinable_two_hello_shares (fun _ => 0x01) hnodup hlt hcount
  refine linterp_ne_of_fewer_points (h.distinctX 0) (fun p hp => ?_) (cs := [0x01]) (top := 0x01)
    (by simp [hcount]) (by decide) (fun p hp => peval_of_mem_sharePoints (by decide) hp)
    (h.linterp_of_combine hs hresult 0 (by decide))
  simp only [List.map_map, List.mem_map] at hp
  obtain ⟨j, hj, rfl⟩ := hp
  exact splitX_ne_zero ((hlt j hj).trans (by decide))

/-- Settles O59: three shares are the threshold; two pass the checks, and from draws of 0x01 they do not give
the letter H. -/
theorem helloScenario_holds : Obligations.HelloScenario := by
  unfold Obligations.HelloScenario
  refine ⟨fun rng s hs => ⟨?_, fun places hnodup hlt => ⟨fun hcount => ?_, fun hcount => ?_⟩⟩,
    fun _ => 0x01, fun places s hs hnodup hlt hcount => ?_⟩
  · obtain ⟨ys, -, hsplit⟩ := split_of_valid (n := 5) (t := 3) (by decide) (by decide) (by decide)
      helloSecret_ne_nil rng hs
    exact ⟨_, congrArg HostRun.result hsplit, by simp, by simp [helloSecret]⟩
  · exact roundTrip_result_eq_ok (n := 5) (t := 3) (by decide) (by decide) (by decide)
      helloSecret_ne_nil rng hnodup hlt hcount hs
  · obtain ⟨s', hs', hresult⟩ := helloScenario_eq_combine rng hlt hs
    have h := combinable_two_hello_shares rng hnodup hlt hcount
    obtain ⟨v, hlen, hv⟩ := h.exists_secret
    exact ⟨v, hlen, hresult.trans (congrArg HostRun.result (h.combine_eq hlen hv hs'))⟩
  · obtain ⟨s', hs', hresult⟩ := helloScenario_eq_combine (fun _ => 0x01) hlt hs
    rw [hresult]
    exact combine_two_hello_shares_ne hnodup hlt hcount hs'

end Sys2Proof.Machine

/-! ### The testable properties (R119) -/

namespace Sys2Proof.Machine

/-- Coefficients of values at the points are what the engine's answers to PEVAL show (R119 (b)). -/
theorem pointsFit_of_fit {pts : List Point} {secret : Byte} {cs : List Byte} (hlen : cs.length ≤ 254)
    (hfit : ∀ p ∈ pts, peval p.x secret cs = p.y) {s : State} (hs : s.inputs = []) :
    pointsFit pts secret cs s = true := by
  have hsend := sendAll_peval hs (pts.map Point.x) secret hlen
  rw [List.map_map, List.map_map] at hsend
  have hvalues : pts.map ((fun x => peval x secret cs) ∘ Point.x) = pts.map Point.y :=
    List.map_congr_left hfit
  rw [pointsFit, beq_iff_eq, ← hvalues]
  exact congrArg Prod.snd hsend

/-- The engine's own products and sums show the inverse law, the sum of equal operands and the product with
0x00 (R119 (f)). -/
theorem fieldSelfCheck_eq {a : Byte} (ha : a ≠ 0x00) {s : State} (hs : s.inputs = []) :
    ∃ ys : List Byte, fieldSelfCheck a s = (s.respondAll ys, true) := by
  obtain ⟨v, hv, hmul⟩ := exists_gfDiv_eq_some 0x01 ha
  have hdiv : answer (encode (.gfdiv 0x01 a)) = .ok v := by
    rw [answer_encode rfl, commandResponse, hv]
    rfl
  have hanswers : [encode (.gfmul a v), encode (.gfadd a a), encode (.gfmul a 0x00)].map answer =
      [0x01, 0x00, 0x00].map Response.ok := by
    simp only [List.map_cons, List.map_nil, answer_encode (i := .gfmul _ _) rfl,
      answer_encode (i := .gfadd _ _) rfl, commandResponse, gfMul_comm a v, hmul, gfAdd_self,
      gfMul_zero_right]
  refine ⟨[v, 0x01, 0x00, 0x00], ?_⟩
  rw [fieldSelfCheck, send_of_idle hs, hdiv]
  simp only [sendAll_of_idle (s := s.respond (.ok v)) hs hanswers, ← State.respondAll_cons, beq_self_eq_true]

theorem combineTwice_fst_eq_snd (shares : List Share) {s : State} (hs : s.inputs = []) :
    (combineTwice shares s).1 = (combineTwice shares s).2 := by
  obtain ⟨ys, result, -, hcombine⟩ := exists_combine_eq shares
  refine combine_result_eq shares hs ?_
  rw [hcombine s hs]
  exact hs

theorem splitExamples_eq (secret : List Byte) (rng : Nat → Byte) (s : State) :
    splitExamples secret rng s =
      [.error .invalidShareCount, .error .sharesLessThanThreshold, .error .emptySecret] := by
  rw [splitExamples, split_of_check_eq_some (e := .invalidShareCount) rfl,
    split_of_check_eq_some (e := .sharesLessThanThreshold) rfl, split_of_check_eq_some (e := .emptySecret) rfl]

theorem combineExamples_eq {share long : Share} (index : Byte) {p q : List Byte} (s : State)
    (hlong : share.length < long.length) (hp : 1 ≤ p.length) (hpq : p.length = q.length) :
    combineExamples share long index p q s =
      [.error .shareCountMismatch, .error .shareCountMismatch, .error .inconsistentShareLength,
        .error .duplicateShares] := by
  have hdiffer : combineCheck [share, long] = .error .inconsistentShareLength :=
    if_pos (by simp [sameLengths, hlong.ne'])
  have hdup : combineCheck [index :: p, index :: q] = .error .duplicateShares :=
    combineCheck_of_duplicate (L := p.length + 1) (by omega) (by simp [hpq]) (by simp [shareIndex, byteAt])
  rw [combineExamples, combine_of_check_eq_error (combineCheck_of_few (by simp)),
    combine_of_check_eq_error (combineCheck_of_few (by simp)), combine_of_check_eq_error hdiffer,
    combine_of_check_eq_error hdup]

/-- Settles O60: each property is a lemma about its host program. -/
theorem testablePropertiesOfTheSequences : Obligations.TestablePropertiesOfTheSequences := by
  unfold Obligations.TestablePropertiesOfTheSequences
  refine ⟨fun secret n t rng places s hs hsecret ht htn hn hnodup hlt hcount => ?_,
    fun pts secret secret' s hs hlen h hx _ => ?_, splitExamples_eq,
    fun share long index p q s _ hlong hp hpq => combineExamples_eq index s hlong hp hpq,
    fun shares s => combineTwice_fst_eq_snd shares, fun a s hs ha => ?_⟩
  · exact roundTrip_result_eq_ok (n := n) (t := t) (by omega) (by omega) (by omega) hsecret rng hnodup
      hlt hcount.ge hs
  · obtain ⟨cs, hcs, hfit, -⟩ := existsUnique_fit_with_secret h hx secret
    obtain ⟨cs', hcs', hfit', -⟩ := existsUnique_fit_with_secret h hx secret'
    exact ⟨cs, cs', hcs, hcs', pointsFit_of_fit (hcs.trans_le hlen) hfit hs,
      pointsFit_of_fit (hcs'.trans_le hlen) hfit' hs⟩
  · obtain ⟨ys, hcheck⟩ := fieldSelfCheck_eq ha hs
    exact ⟨s.respondAll ys, hs, hcheck⟩

end Sys2Proof.Machine

/-! ### Faults of execution (R121) -/

namespace Sys2Proof.Machine

theorem exec_eq_next_append_iff {i : Instr} {s : State} {r : Response} :
    exec i s = .next { inputs := s.inputs, responses := s.responses ++ [r] } ↔ commandResponse i = r := by
  simp [exec_eq_respond, State.respond_eq]

theorem gfDiv_eq_none_iff {a b : Byte} : gfDiv a b = none ↔ b = 0x00 := by
  refine ⟨fun hnone => by_contra fun hb => ?_, fun hb => hb ▸ gfDiv_zero_right a⟩
  obtain ⟨q, hq, -⟩ := exists_gfDiv_eq_some a hb
  cases hnone.symm.trans hq

theorem getD_map_ok_eq_fault_iff {v : Option Byte} {e : CommandFault} :
    (v.map Response.ok).getD (.fault e) = .fault e ↔ v = none := by
  cases v <;> simp

theorem commandResponse_eq_divideByZero_iff (i : Instr) : commandResponse i = .fault .divideByZero ↔
    (∃ a, i = .gfdiv a 0x00) ∨ ∃ p0 ps, i = .linterp p0 ps ∧ ¬ DistinctX (p0 :: ps) := by
  cases i with
  | gfadd a b => simp [commandResponse]
  | gfmul a b => simp [commandResponse]
  | gfdiv a b => simp [commandResponse, getD_map_ok_eq_fault_iff, gfDiv_eq_none_iff]
  | peval x c0 cs => simp [commandResponse]
  | linterp p0 ps => simp [commandResponse, getD_map_ok_eq_fault_iff, linterp_eq_none_iff]

/-- Settles O18: execution appends the command's own response, which is a fault where the quotient or the
interpolation has no value. -/
theorem divideByZeroExactly : Obligations.DivideByZeroExactly := by
  unfold Obligations.DivideByZeroExactly
  exact fun i s => ⟨exec_eq_next_append_iff.trans (commandResponse_eq_divideByZero_iff i),
    fun e h => commandResponse_eq_fault (exec_eq_next_append_iff.1 h)⟩

end Sys2Proof.Machine

/-! ### Runs with and without faults (R124, R128, R130) -/

namespace Sys2Proof.Machine

/-- Settles O11: two steps answer the two frames each by its own answer, and one step answers the first of
them alike from any state. -/
theorem faultsAreNotSticky : Obligations.FaultsAreNotSticky := by
  unfold Obligations.FaultsAreNotSticky
  intro s f g e rest hs hf
  rw [← hf]
  exact ⟨run_of_frames (fs := [f, g]) hs, fun t ht => step_of_frame_eq_respond ht⟩

/-- No step stops the engine (R150). -/
theorem exists_step_eq_next (s : State) : ∃ t, step s = .next t := by
  match hs : s.inputs with
  | [] => exact ⟨_, step_idle hs⟩
  | .reset :: rest => exact ⟨_, step_of_reset hs⟩
  | .frame f :: rest => exact ⟨_, step_of_frame_eq_respond hs⟩

/-- However many steps are taken, the run goes on and its answers, sent and to come, stay what they are. -/
theorem exists_run_eq_next (k : Nat) (s : State) :
    ∃ t : State, Host.Core.run core k s = .next t ∧ t.allAnswers = s.allAnswers := by
  induction k generalizing s with
  | zero => exact ⟨s, rfl, rfl⟩
  | succ k ih =>
    obtain ⟨u, hstep⟩ := exists_step_eq_next s
    obtain ⟨t, hrun, hkept⟩ := ih u
    exact ⟨t, (run_succ_of_step hstep k).trans hrun, hkept.trans (allAnswers_eq_of_step hstep)⟩

theorem safeSoFar_iff (s : State) : SafeSoFar s ↔ ∀ r ∈ s.responses, r.isFault = false := by
  simp [SafeSoFar, State.faultRecorded]

theorem mem_allAnswers {s : State} {r : Response} :
    r ∈ s.allAnswers ↔ r ∈ s.responses ∨ ∃ f ∈ framesOf s.inputs, answer f = r := by
  simp [State.allAnswers]

theorem answer_of_command {f : Frame} {i : Instr} (h : decode f = .command i) :
    answer f = commandResponse i := by
  rw [answer, h]

/-- GFADD, GFMUL and PEVAL have a value for all operands, so their frames are never answered with a fault
(R124). -/
theorem isFault_answer_of_add_mul_or_eval {f : Frame}
    (h : (∃ a b, decode f = .command (.gfadd a b)) ∨ (∃ a b, decode f = .command (.gfmul a b)) ∨
      ∃ x c0 cs, decode f = .command (.peval x c0 cs)) : (answer f).isFault = false := by
  obtain ⟨a, b, hf⟩ | ⟨a, b, hf⟩ | ⟨x, c0, cs, hf⟩ := h <;> rw [answer_of_command hf] <;> rfl

/-- Settles O12: the answers of the whole run, those to come included, hold no fault, and no step changes
them. -/
theorem addMulAndEvalRunsAreSafe : Obligations.AddMulAndEvalRunsAreSafe := by
  unfold Obligations.AddMulAndEvalRunsAreSafe
  intro s hsafe hframes k
  have hanswers : ∀ r ∈ s.allAnswers, r.isFault = false := by
    intro r hr
    obtain hsent | ⟨f, hf, rfl⟩ := mem_allAnswers.1 hr
    · exact (safeSoFar_iff s).1 hsafe r hsent
    · exact isFault_answer_of_add_mul_or_eval (hframes f hf)
  obtain ⟨t, hrun, hkept⟩ := exists_run_eq_next k s
  exact ⟨t, hrun, (safeSoFar_iff t).2 fun r hr => hanswers r (hkept ▸ mem_allAnswers.2 (.inl hr))⟩

end Sys2Proof.Machine

/-! ### The end of a run (R150, R152) -/

namespace Sys2Proof.Machine

@[simp] theorem framesOf_map_frame (fs : List Frame) : framesOf (fs.map PortEvent.frame) = fs := by
  induction fs with
  | nil => rfl
  | cons f fs ih => rw [List.map_cons, framesOf_frame, ih]

theorem runOver_finished (s : State) : RunOver s.finished := rfl

theorem finished_of_frames {s : State} {fs : List Frame} (h : s.inputs = fs.map PortEvent.frame) :
    s.finished = { inputs := [], responses := s.responses ++ fs.map answer } := by
  rw [State.finished, State.allAnswers, h, framesOf_map_frame]

/-- So many steps of a run of frames answer so many frames, the first ones, and leave the others waiting. -/
theorem run_of_first_frames {s : State} {fs : List Frame} (h : s.inputs = fs.map PortEvent.frame) {j : Nat}
    (hj : j ≤ fs.length) : Host.Core.run core j s =
      .next { inputs := (fs.drop j).map PortEvent.frame,
              responses := s.responses ++ (fs.take j).map answer } := by
  have hinputs : s.inputs = (fs.take j).map PortEvent.frame ++ (fs.drop j).map PortEvent.frame := by
    rw [h, ← List.map_append, List.take_append_drop]
  have hrun := run_of_frames hinputs
  rwa [List.length_take_of_le hj] at hrun

/-- Settles O8: k steps answer all k frames, and after fewer steps the frames behind those answered still
wait. -/
theorem runOfFramesIsOverAfterAsManySteps : Obligations.RunOfFramesIsOverAfterAsManySteps := by
  unfold Obligations.RunOfFramesIsOverAfterAsManySteps
  intro s fs h
  refine ⟨?_, runOver_finished s, fun j hj => ⟨_, run_of_first_frames h hj.le, ?_, ?_⟩⟩
  · rw [finished_of_frames h]
    exact run_of_frames (by rw [h, List.append_nil])
  · rw [RunOver, framesOf_map_frame, List.drop_eq_nil_iff]
    exact hj.not_ge
  · rw [List.length_append, List.length_map, List.length_take_of_le hj.le]

end Sys2Proof.Machine

/-! ### One step: a command, a reset, or nothing presented (R137, R139, R151) -/

namespace Sys2Proof.Machine

/-- Settles O1: a step takes the frame, and running a frame that decodes to a command executes it. -/
theorem stepRunsTheDecodedCommand : Obligations.StepRunsTheDecodedCommand := by
  unfold Obligations.StepRunsTheDecodedCommand
  exact fun _ _ _ _ hs hf => (step_of_frame hs).trans (runFrame_of_command hf _)

/-- Settles O5: taking a reset is dropping it from the inputs. -/
theorem resetBetweenCommandsChangesNothing : Obligations.ResetBetweenCommandsChangesNothing := by
  unfold Obligations.ResetBetweenCommandsChangesNothing
  exact fun _ _ hs => step_of_reset hs

/-- Settles O6: the frame presented to the idle engine is the only input, and no response stands before its
answer. -/
theorem firstFrameAfterResetIsTheFirstCommand : Obligations.FirstFrameAfterResetIsTheFirstCommand := by
  unfold Obligations.FirstFrameAfterResetIsTheFirstCommand
  exact ⟨State.reset_inputs, State.reset_responses,
    fun f => step_of_frame_eq_respond (State.present_inputs State.reset f)⟩

/-- Settles O7 by the model's rule for an idle step. -/
theorem idleEngineStaysAsItIs : Obligations.IdleEngineStaysAsItIs := by
  unfold Obligations.IdleEngineStaysAsItIs
  exact fun _ hs => step_idle hs

/-- Settles O10: at reset no response has been sent and no frame waits. -/
theorem resetMeetsTheAnswersInvariant : Obligations.ResetMeetsTheAnswersInvariant := by
  unfold Obligations.ResetMeetsTheAnswersInvariant
  rw [AnswersKept, State.allAnswers, State.reset_responses, State.reset_inputs, framesOf_nil, List.map_nil,
    List.append_nil]

end Sys2Proof.Machine
